-- ==== Sys2Proof/Word.lean ====
section
/-! DEFINITION. The words of the machine: bytes, 12-bit addresses, 16-bit opcodes, register numbers (spec/10_state.md R30, R34, R37; spec/30_encoding.md R90). -/

namespace Sys2Proof

/-- A data value or one byte of RAM: 8 bits, unsigned (R12, R30). -/
abbrev Byte := BitVec 8

/-- The value held by PC or by I: 12 bits, so that every write is masked to 12 bits (R34, R37). -/
abbrev Address := BitVec 12

/-- An instruction word, and one entry of the call stack: 16 bits (R39, R90). -/
abbrev Opcode := BitVec 16

/-- The number of a general register V0 to VF (R30). -/
abbrev Reg := Fin 16

end Sys2Proof
end

