-- ==== Sys2Proof/Config.lean ====
section
/-! DEFINITION. What an implementation fixes and the spec leaves open (spec/00_scope.md R8, R9): the fixed parameters, the three policies, the small font, and the two free values (the large font and the random byte). -/

namespace Sys2Proof

/-- `RAM_SIZE` of R8. -/
def ramSize : Nat := 4096

/-- `ROM_BASE` of R8: where the ROM loader puts the first ROM byte. -/
def romBase : Nat := 0x200

/-- `ROM_MAX` of R8: the longest ROM that fits. -/
def romMax : Nat := 3584

/-- `INSTR_PER_TICK` of R8. -/
def instrPerTick : Nat := 1024

/-- `ADDR_OOB` of R9: what a RAM address past 0xFFF does (R73). -/
inductive AddrPolicy where
  | wrap
  | fault
deriving DecidableEq, Repr

/-- `STACK_OOB` of R9: what 2nnn with SP = 16 and 00EE with SP = 0 do (R151, R152). -/
inductive StackPolicy where
  | fault
  | wrap
deriving DecidableEq, Repr

/-- `HP48_OOB` of R9: what Fx75 and Fx85 with X of 8 or more do (R229, R230). -/
inductive Hp48Policy where
  | fault
  | clamp
deriving DecidableEq, Repr

/-- The open parameters of R9 that have a default. They are one plain field of the machine's state that no
step writes, so a statement about every state is a statement about every choice of them (assumption 2). -/
structure Config where
  addrOob : AddrPolicy
  stackOob : StackPolicy
  hp48Oob : Hp48Policy
  smallFont : Vector Byte 80
deriving DecidableEq, Repr

/-- The five row bytes of one small glyph, top row first (spec/93_implementation_defined.md G1). -/
def Config.glyph (a b c d e : Byte) : Vector Byte 5 := #v[a, b, c, d, e]

/-- The conventional small font, the spec's default of `FONT_SMALL` (spec/93_implementation_defined.md G1).
PRESUMED by the spec from general knowledge, unsafe: see assumption 3. -/
def Config.conventionalFont : Vector Byte 80 :=
  glyph 0xF0 0x90 0x90 0x90 0xF0 ++ glyph 0x20 0x60 0x20 0x20 0x70
    ++ glyph 0xF0 0x10 0xF0 0x80 0xF0 ++ glyph 0xF0 0x10 0xF0 0x10 0xF0
    ++ glyph 0x90 0x90 0xF0 0x10 0x10 ++ glyph 0xF0 0x80 0xF0 0x10 0xF0
    ++ glyph 0xF0 0x80 0xF0 0x90 0xF0 ++ glyph 0xF0 0x10 0x20 0x40 0x40
    ++ glyph 0xF0 0x90 0xF0 0x90 0xF0 ++ glyph 0xF0 0x90 0xF0 0x10 0xF0
    ++ glyph 0xF0 0x90 0xF0 0x90 0x90 ++ glyph 0xE0 0x90 0xE0 0x90 0xE0
    ++ glyph 0xF0 0x80 0x80 0x80 0xF0 ++ glyph 0xE0 0x90 0x90 0x90 0xE0
    ++ glyph 0xF0 0x80 0xF0 0x80 0xF0 ++ glyph 0xF0 0x80 0xF0 0x80 0x80

/-- The defaults of R9. -/
def Config.default : Config where
  addrOob := .wrap
  stackOob := .fault
  hp48Oob := .fault
  smallFont := Config.conventionalFont

/-- `FONT_LARGE` of R9, which has no default: byte `i` of the large font at 0x050 + `i` (R71, R78, D19).
A FREE VALUE without a body: nothing can be proved about its bytes (assumption 4, safe). -/
opaque Config.fontLarge : Fin 160 → Byte

/-- `RAND` of R9: the byte drawn by the `k`-th execution of Cxkk (R196, D21). A FREE VALUE without a body:
nothing can be proved about any draw or about two draws together (assumption 5, safe). -/
opaque Config.randomByte : Nat → Byte

end Sys2Proof
end

