-- ==== Sys2Proof/Syntax.lean ====
section
/-! DEFINITION. The instructions: one constructor for each of the 44 rows of spec/opcode_table.json (spec/00_scope.md R3, spec/30_encoding.md R93 to R95). -/

namespace Sys2Proof

/-- The instruction set. Operands are those of the row's `fields`: `x`, `y` name registers, `kk` is the 8-bit
immediate, `nnn` the 12-bit address, `n` the 4-bit count (R91, R92). -/
inductive Instr where
  /-- 00E0 `CLS` (R121). -/
  | cls
  /-- 00EE `RET` (R152). -/
  | ret
  /-- 00Cn `SCD n` (R124). -/
  | scd (n : BitVec 4)
  /-- 00FB `SCR` (R122). -/
  | scr
  /-- 00FC `SCL` (R123). -/
  | scl
  /-- 00FD `EXIT` (R125). -/
  | exit
  /-- 00FE `LOW` (R127). -/
  | low
  /-- 00FF `HIGH` (R128). -/
  | high
  /-- 0nnn `SYS nnn` with X not 0 (R129). -/
  | sys (nnn : Address)
  /-- 1nnn `JP nnn` (R150). -/
  | jp (nnn : Address)
  /-- 2nnn `CALL nnn` (R151). -/
  | call (nnn : Address)
  /-- 3xkk `SE Vx, kk` (R154). -/
  | seImm (x : Reg) (kk : Byte)
  /-- 4xkk `SNE Vx, kk` (R155). -/
  | sneImm (x : Reg) (kk : Byte)
  /-- 5xy0 `SE Vx, Vy` (R156). -/
  | seReg (x y : Reg)
  /-- 6xkk `LD Vx, kk` (R180). -/
  | ldImm (x : Reg) (kk : Byte)
  /-- 7xkk `ADD Vx, kk` (R181). -/
  | addImm (x : Reg) (kk : Byte)
  /-- 8xy0 `LD Vx, Vy` (R183). -/
  | ldReg (x y : Reg)
  /-- 8xy1 `OR Vx, Vy` (R184). -/
  | orReg (x y : Reg)
  /-- 8xy2 `AND Vx, Vy` (R185). -/
  | andReg (x y : Reg)
  /-- 8xy3 `XOR Vx, Vy` (R186). -/
  | xorReg (x y : Reg)
  /-- 8xy4 `ADD Vx, Vy` (R187). -/
  | addReg (x y : Reg)
  /-- 8xy5 `SUB Vx, Vy` (R188). -/
  | subReg (x y : Reg)
  /-- 8xy6 `SHR Vx, Vy` (R189). -/
  | shrReg (x y : Reg)
  /-- 8xy7 `SUBN Vx, Vy` (R190). -/
  | subnReg (x y : Reg)
  /-- 8xyE `SHL Vx, Vy` (R191). -/
  | shlReg (x y : Reg)
  /-- 9xy0 `SNE Vx, Vy` (R157). -/
  | sneReg (x y : Reg)
  /-- Annn `LD I, nnn` (R220). -/
  | ldIndex (nnn : Address)
  /-- Bnnn `JP V0, nnn` (R158). -/
  | jpV0 (nnn : Address)
  /-- Cxkk `RND Vx, kk` (R196). -/
  | rnd (x : Reg) (kk : Byte)
  /-- Dxyn `DRW Vx, Vy, n` (R250). -/
  | drw (x y : Reg) (n : BitVec 4)
  /-- Ex9E `SKP Vx` (R271). -/
  | skp (x : Reg)
  /-- ExA1 `SKNP Vx` (R272). -/
  | sknp (x : Reg)
  /-- Fx07 `LD Vx, DT` (R274). -/
  | ldFromDelay (x : Reg)
  /-- Fx0A `LD Vx, K` (R273). -/
  | waitKey (x : Reg)
  /-- Fx15 `LD DT, Vx` (R275). -/
  | ldDelay (x : Reg)
  /-- Fx18 `LD ST, Vx` (R276). -/
  | ldSound (x : Reg)
  /-- Fx1E `ADD I, Vx` (R222). -/
  | addIndex (x : Reg)
  /-- Fx29 `LD F, Vx` (R223). -/
  | ldFont (x : Reg)
  /-- Fx30 `LD HF, Vx` (R224). -/
  | ldLargeFont (x : Reg)
  /-- Fx33 `LD B, Vx` (R225). -/
  | storeBcd (x : Reg)
  /-- Fx55 `LD [I], Vx` (R227). -/
  | storeRegs (x : Reg)
  /-- Fx65 `LD Vx, [I]` (R228). -/
  | loadRegs (x : Reg)
  /-- Fx75 `LD R, Vx` (R229). -/
  | saveFlags (x : Reg)
  /-- Fx85 `LD Vx, R` (R230). -/
  | loadFlags (x : Reg)
deriving DecidableEq, Repr

end Sys2Proof
end

