-- ==== Sys2Proof/Machine/State.lean ====
section
/-! DEFINITION. The state of the machine as plain data, its value after reset, and the reasons a step can stop (spec/10_state.md; spec/60_exceptions.md R301, R330, R334; spec/70_reset_and_hazards.md R350). -/

namespace Sys2Proof.Machine

/-- R46. -/
inductive Mode where
  | legacy
  | extended
deriving DecidableEq, Repr

/-- R50. -/
inductive KeyState where
  | up
  | down
  | released
deriving DecidableEq, Repr

/-- R45. -/
inductive Lifecycle where
  | stopped
  | loadingROM
  | running
deriving DecidableEq, Repr

/-- The video buffer of R52, 64 rows of 128 cells: bit `x` of row `y` is the cell `VB[x, y]`. -/
abbrev VideoBuffer := Vector (BitVec 128) 64

/-- RAM (R53, R70): the cells that differ from what an unlisted address reads as, addresses rising. -/
abbrev Memory := List Host.Cell

/-- Why a run ended from inside the core, with the information recorded (R301). `addr` is the address the
halting instruction was fetched from; `bad` is the first offending address. -/
inductive Halt where
  /-- 00FD. -/
  | finish (addr : Address)
  /-- Any word of R96; `romRel` is `addr` - 0x200, negative below the ROM. -/
  | unknownOpcode (opcode : Opcode) (addr : Address) (romRel : Int)
  /-- 2nnn with SP = 16 under `STACK_OOB = fault`. -/
  | stackOverflow (addr : Address) (sp : Nat)
  /-- 00EE with SP = 0 under `STACK_OOB = fault`. -/
  | stackUnderflow (addr : Address) (sp : Nat)
  /-- Fx75 or Fx85 with X of 8 or more under `HP48_OOB = fault`. -/
  | hp48Range (addr : Address) (x : Nat)
  /-- A RAM address past 0xFFF under `ADDR_OOB = fault`. -/
  | addrRange (addr : Address) (bad : Nat)
deriving DecidableEq, Repr

/-- The core-to-host events of R334. -/
inductive Event where
  | stateChanged (state : Lifecycle)
  /-- A copy of VB taken when the event is emitted; its 8192-byte form is `VideoBuffer.payload` (R82). -/
  | frameReady (videoBuffer : VideoBuffer)
  | playSound
  | stopSound
  | error (cause : Halt)
  | loadError
deriving DecidableEq, Repr

/-- What a Run command offers as its ROM: its bytes, or a ROM that cannot be obtained (R351, R352). -/
inductive Rom where
  | bytes (content : List Byte)
  | unobtainable
deriving DecidableEq, Repr

/-- The host-to-core commands of R330. A parameter that is `none` is missing, or for a key state is none of
Up, Down and Released; such commands are ignored (R332, R336). -/
inductive Command where
  | run (rom : Option Rom) (altShift altStoreLoad : Option Bool)
  | stop
  | setSettings (altShift altStoreLoad : Option Bool)
  | sendInput (key : Option Nat) (state : Option KeyState)
deriving DecidableEq, Repr

/-- What an accepted Run command asked for, held while the ROM is being loaded (R351). -/
structure LoadRequest where
  rom : Rom
  altShift : Bool
  altStoreLoad : Bool
deriving DecidableEq, Repr

/-- Why the machine stops with a fault. Every exceptional event the spec describes is a halt, which is a NEXT
state (R300), so no instruction raises a fault. -/
inductive Fault where
  /-- Raised by `step` when a tick is in progress although Lifecycle is not Running. No rule gives that state a
  meaning, since a tick runs only while Running (R360, R361), and no run reaches it. Safe: the model stops. -/
  | tickWithoutCpu
deriving DecidableEq, Repr

/-- Why an instruction has no meaning here. -/
inductive Refusal where
  /-- Raised only by an arm of `exec` whose instruction is not modelled yet; no arm is. Safe: the model stops. -/
  | notModelled (mnemonic : String)
deriving DecidableEq, Repr

/-- The state of the machine. While Lifecycle is not Running the CPU, memory and input state does not exist;
the fields then keep the state the last run ended with as the read-only snapshot of R56 (D35). -/
structure State where
  /-- V0 to VF (R30); VF is also the flag (R31). -/
  v : Vector Byte 16
  /-- The index register (R37). -/
  i : Address
  /-- The program counter (R34). -/
  pc : Address
  /-- The stack depth, 0 to 16 (R38). -/
  sp : Fin 17
  /-- The call stack (R39). -/
  stack : Vector Opcode 16
  /-- The HP48 flag bytes (R40). -/
  hp48 : Vector Byte 8
  /-- The delay timer (R41). -/
  dt : Byte
  /-- The sound timer (R42). -/
  st : Byte
  /-- The emulation mode (R46). -/
  mode : Mode
  /-- The quirk setting `altShiftOpcode` (R47). -/
  altShift : Bool
  /-- The quirk setting `altStoreLoadOpcode` (R47). -/
  altStoreLoad : Bool
  /-- RAM (R53, R70). -/
  mem : Memory
  /-- The video buffer (R52). -/
  vb : VideoBuffer
  /-- `KeyCur` (R50). -/
  keyCur : Vector KeyState 16
  /-- `KeyPrev` (R51). -/
  keyPrev : Vector KeyState 16
  /-- `HaltForRender` (R48). -/
  haltForRender : Bool
  /-- `StopReq` (R49). -/
  stopReq : Bool
  /-- The cause and information a halt recorded (R300, R301). -/
  halt : Option Halt
  /-- The model's own: whether a tick's batch of instructions is in progress (R361; assumption 32). -/
  inTick : Bool
  /-- The steps executed in the current tick (R54). -/
  stepCount : Nat
  /-- `Lifecycle` (R45). -/
  lifecycle : Lifecycle
  /-- The model's own: the Run request being served while LoadingROM (R351; assumption 31). -/
  loading : Option LoadRequest
  /-- The core-to-host channel, oldest event first (R55, R334). -/
  events : List Event
  /-- The host-to-core channel, oldest command first (R330). -/
  commands : List Command
  /-- The model's own: the batches of commands the host will yet send, one batch for each coming tick, or for
  each idle step while Stopped (assumption 6). -/
  arrivals : List (List Command)
  /-- The model's own: how many draws of `RAND` have been taken, the index of the next free value (assumption 5). -/
  draws : Nat
  /-- The model's own: the open parameters of R9, which no step writes (assumption 2). -/
  config : Config
deriving DecidableEq, Repr

/-- The three outcomes of a step or of an instruction of this machine. -/
abbrev Result := Host.Outcome State Fault Refusal

/-- The machine at power-on (R350): Lifecycle is Stopped and nothing has been sent in either direction. The
CPU, memory and input fields hold the values a run starts with (R57), RAM with nothing listed (assumption 1). -/
def State.reset : State where
  v := Vector.replicate 16 0#8
  i := 0#12
  pc := 0x200#12
  sp := 0
  stack := Vector.replicate 16 0#16
  hp48 := Vector.replicate 8 0#8
  dt := 0#8
  st := 0#8
  mode := .legacy
  altShift := false
  altStoreLoad := false
  mem := []
  vb := Vector.replicate 64 0#128
  keyCur := Vector.replicate 16 .up
  keyPrev := Vector.replicate 16 .up
  haltForRender := false
  stopReq := false
  halt := none
  inTick := false
  stepCount := 0
  lifecycle := .stopped
  loading := none
  events := []
  commands := []
  arrivals := []
  draws := 0
  config := Config.default

end Sys2Proof.Machine
end

