-- ==== Sys2Proof/Machine/Video.lean ====
section
/-! DEFINITION. The video buffer's accessors and whole-buffer operations (spec/20_memory.md R80 to R82; spec/40_system_display.md R122 to R124). -/

namespace Sys2Proof.Machine

/-- A cell of the buffer: its column `x` and its row `y`. -/
abbrev VbCell := Nat × Nat

/-- `GetPixel(x, y)` (R80): whether the cell is 1; false outside the buffer. -/
def VideoBuffer.getPixel (vb : VideoBuffer) (x y : Nat) : Bool := ((vb[y]?).getD 0#128).getLsbD x

/-- `SetPixel(x, y)` (R80): toggles the cell. -/
def VideoBuffer.togglePixel (vb : VideoBuffer) (x y : Nat) : VideoBuffer :=
  vb.setIfInBounds y ((vb[y]?).getD 0#128 ^^^ (1#128 <<< x))

/-- `ClearVideoBuffer()` (R81): every cell 0. -/
def VideoBuffer.clear : VideoBuffer := Vector.replicate 64 0#128

/-- The cells moved 4 columns to the right, the vacated columns 0 (R122). -/
def VideoBuffer.scrollRight (vb : VideoBuffer) : VideoBuffer :=
  Vector.ofFn fun y : Fin 64 => vb[y.val] <<< 4

/-- The cells moved 4 columns to the left, the vacated columns 0 (R123). -/
def VideoBuffer.scrollLeft (vb : VideoBuffer) : VideoBuffer :=
  Vector.ofFn fun y : Fin 64 => vb[y.val] >>> 4

/-- The cells moved `n` rows down, the vacated rows 0 (R124). -/
def VideoBuffer.scrollDown (vb : VideoBuffer) (n : Nat) : VideoBuffer :=
  Vector.ofFn fun y : Fin 64 => if n ≤ y.val then vb[y.val - n] else 0#128

/-- The 8192 bytes a FrameReady event carries: byte `y * 128 + x` is `VB[x, y]` (R82). -/
def VideoBuffer.payload (vb : VideoBuffer) : List Byte :=
  (List.range 8192).map fun k => if VideoBuffer.getPixel vb (k % 128) (k / 128) then 1#8 else 0#8

/-- Toggles one cell of a buffer and notes whether it was 1 before (R254, R255). -/
def VideoBuffer.drawCell (p : VideoBuffer × Bool) (c : VbCell) : VideoBuffer × Bool :=
  (VideoBuffer.togglePixel p.1 c.1 c.2, p.2 || VideoBuffer.getPixel p.1 c.1 c.2)

/-- Toggles the cells in turn; the flag says whether any of them was 1 before its toggle (R254, R255). -/
def VideoBuffer.drawCells (vb : VideoBuffer) (cells : List VbCell) : VideoBuffer × Bool :=
  cells.foldl VideoBuffer.drawCell (vb, false)

end Sys2Proof.Machine
end

