-- ==== Sys2Proof/Machine/Ops.lean ====
section
/-! DEFINITION. The named operations over the state: RAM, the registers, the call stack, the events, and the halt, the one way an exceptional event ends a run (spec/20_memory.md R70 to R79; spec/41_control_flow.md R151, R152; spec/60_exceptions.md R300 to R305). -/

namespace Sys2Proof.Machine

/-! ## RAM -/

/-- What an address that no cell lists reads as: the start-of-run contents of R57, that is the small font, the
large font, and 0 everywhere else (R71, R78). -/
def Memory.unlisted (c : Config) (a : Nat) : Byte :=
  if h : a < 80 then c.smallFont[a]
  else if h' : a < 240 then Config.fontLarge ⟨a - 80, by omega⟩
  else 0#8

/-- One byte of RAM. -/
def Memory.read (c : Config) : Memory → Nat → Byte
  | [], a => Memory.unlisted c a
  | (b, w) :: m, a => if a = b then w else Memory.read c m a

/-- RAM with one byte written, in canonical form again. -/
def Memory.write (c : Config) : Memory → Nat → Byte → Memory
  | [], a, x => if x = Memory.unlisted c a then [] else [(a, x)]
  | (b, w) :: m, a, x =>
    if a < b then (if x = Memory.unlisted c a then (b, w) :: m else (a, x) :: (b, w) :: m)
    else if a = b then (if x = Memory.unlisted c a then m else (a, x) :: m)
    else (b, w) :: Memory.write c m a x

/-- The canonical form: addresses strictly rising and inside RAM, no cell equal to what its address reads as
unlisted. -/
abbrev Memory.wf (c : Config) (m : Memory) : Prop :=
  m.Pairwise (fun p q => p.1 < q.1) ∧ ∀ p ∈ m, p.1 < ramSize ∧ p.2 ≠ Memory.unlisted c p.1

/-- `Addr(a)` for an address that raised no halt: reduced to the size of RAM (R73). An address that the policy
`fault` refuses never gets here, see `State.firstBadAddr`. -/
def wrapAddr (a : Nat) : Nat := a % ramSize

/-- `MemRead(a, 1)` (R14). -/
def State.readByte (s : State) (a : Nat) : Byte := Memory.read s.config s.mem (wrapAddr a)

/-- `MemWrite(a, 1, x)` (R14). -/
def State.writeByte (s : State) (a : Nat) (x : Byte) : State :=
  { s with mem := Memory.write s.config s.mem (wrapAddr a) x }

/-- Writes bytes at rising addresses from `a` on (R77). -/
def State.storeBytes (s : State) (a : Nat) : List Byte → State
  | [] => s
  | x :: xs => State.storeBytes (s.writeByte a x) (a + 1) xs

/-- The first of the addresses that `ADDR_OOB = fault` refuses; none under `ADDR_OOB = wrap` (R73). -/
def State.firstBadAddr (s : State) (addrs : List Nat) : Option Nat :=
  match s.config.addrOob with
  | .wrap => none
  | .fault => addrs.find? (fun a => decide (ramSize ≤ a))

/-! ## Registers -/

/-- `V[r]`. -/
def State.reg (s : State) (r : Reg) : Byte := s.v[r.val]

/-- `V[r] <- x`. -/
def State.setReg (s : State) (r : Reg) (x : Byte) : State := { s with v := s.v.set r.val x }

/-- The number of VF, the flag register (R31). -/
def vf : Reg := 15

/-- `PC <- a`; the type masks the value to 12 bits (R34). -/
def State.setPc (s : State) (a : Address) : State := { s with pc := a }

/-- `I <- a`; the type masks the value to 12 bits (R37). -/
def State.setIndex (s : State) (a : Address) : State := { s with i := a }

/-- The address A of the instruction being executed: PC already holds A + 2 (R35). -/
def State.instrAddr (s : State) : Address := s.pc - 2#12

/-- `PC <- PC + 2` when the condition holds (R153). -/
def State.skipIf (s : State) (b : Bool) : State := if b then s.setPc (s.pc + 2#12) else s

/-! ## Events and the video buffer -/

/-- `Emit(e)` (R334). -/
def State.emit (s : State) (e : Event) : State := { s with events := s.events ++ [e] }

/-- `SetHaltForRender()` (R15, R48). -/
def State.requestRender (s : State) : State := { s with haltForRender := true }

/-- Writes VB. -/
def State.setVb (s : State) (b : VideoBuffer) : State := { s with vb := b }

/-- "Signal frame ready" (R120): a FrameReady event with a copy of VB, then the halt-for-render flag. -/
def State.signalFrame (s : State) : State := (s.emit (.frameReady s.vb)).requestRender

/-! ## Taking a halt -/

/-- `raise Halt(cause, info)` (R300): records the halt and requests the stop; the step writes nothing else. The
tick then performs the stop sequence (`State.stopSequence`). A halt saves nothing and there is no return from it (R303). -/
def State.raiseHalt (s : State) (h : Halt) : State := { s with halt := some h, stopReq := true }

/-- The numeric code of a halt cause (R301). -/
def Halt.code : Halt → Nat
  | .finish _ => 0
  | .unknownOpcode _ _ _ => 1
  | .stackOverflow _ _ => 2
  | .stackUnderflow _ _ => 3
  | .hp48Range _ _ => 4
  | .addrRange _ _ => 5

/-- Whether the halt is fatal, that is any but FINISH: only then an Error event is emitted (R302). -/
def Halt.isFatal : Halt → Bool
  | .finish _ => false
  | .unknownOpcode _ _ _ => true
  | .stackOverflow _ _ => true
  | .stackUnderflow _ _ => true
  | .hp48Range _ _ => true
  | .addrRange _ _ => true

/-- Runs an instruction that will use these RAM addresses: under `ADDR_OOB = fault` all of them are checked
before any state is written, and the first that passes 0xFFF raises ADDR_RANGE (R73, R305). -/
def State.guardAddrs (s : State) (addrs : List Nat) (completed : State) : State :=
  match s.firstBadAddr addrs with
  | some bad => s.raiseHalt (.addrRange s.instrAddr bad)
  | none => completed

/-! ## The call stack -/

/-- The push of 2nnn: the return address, which is PC, goes on the stack; none where `STACK_OOB = fault` refuses
a seventeenth entry (R151). Under `wrap` the stack is a ring of 16 entries. -/
def State.push? (s : State) : Option State :=
  match s.config.stackOob with
  | .fault =>
    if h : s.sp.val < 16 then
      some { s with stack := s.stack.set s.sp.val (s.pc.setWidth 16), sp := ⟨s.sp.val + 1, by omega⟩ }
    else none
  | .wrap =>
    some { s with
      stack := s.stack.set (s.sp.val % 16) (s.pc.setWidth 16) (by omega)
      sp := ⟨(s.sp.val + 1) % 16, by omega⟩ }

/-- The pop of 00EE: SP goes down and PC is the entry it then names; none where `STACK_OOB = fault` refuses to pop
an empty stack (R152). The entry is not cleared. -/
def State.pop? (s : State) : Option State :=
  match s.config.stackOob with
  | .fault =>
    if 0 < s.sp.val then
      some { s with sp := ⟨s.sp.val - 1, by omega⟩, pc := (s.stack[s.sp.val - 1]'(by omega)).setWidth 12 }
    else none
  | .wrap =>
    some { s with
      sp := ⟨(s.sp.val + 15) % 16, by omega⟩
      pc := (s.stack[(s.sp.val + 15) % 16]'(by omega)).setWidth 12 }

/-! ## Fetch -/

/-- The instruction fetch at PC (R76): the word there, high byte first, or the first address that
`ADDR_OOB = fault` refuses. -/
def State.fetchWord (s : State) : Except Nat Opcode :=
  match s.firstBadAddr [s.pc.toNat, s.pc.toNat + 1] with
  | some bad => .error bad
  | none => .ok (s.readByte s.pc.toNat ++ s.readByte (s.pc.toNat + 1))

end Sys2Proof.Machine
end

