-- ==== Sys2Proof/Machine/Flags.lean ====
section
/-! DEFINITION. The flag computations. VF is the only flag (spec/10_state.md R31, R43; spec/42_alu.md R194; spec/44_draw.md R256). -/

namespace Sys2Proof.Machine

/-- A flag as the value VF receives. -/
def flagByte (b : Bool) : Byte := if b then 1#8 else 0#8

/-- Carry of 8xy4: 1 iff the exact sum passes 255 (R187). -/
def carryFlag (a b : Byte) : Byte := flagByte (decide (255 < a.toNat + b.toNat))

/-- No borrow of `a` - `b`: 1 iff `a` is at least `b` (R188, R190). -/
def notBorrowFlag (a b : Byte) : Byte := flagByte (decide (b.toNat ≤ a.toNat))

/-- The bit a right shift by one moves out: bit 0 (R189). -/
def shiftedOutRight (src : Byte) : Byte := src &&& 1#8

/-- The bit a left shift by one moves out: bit 7 (R191). -/
def shiftedOutLeft (src : Byte) : Byte := src >>> 7

/-- Writes the result and then the flag, so that VF ends as the flag when it is also the destination (R182, D3). -/
def State.setResultAndFlag (s : State) (x : Reg) (result flag : Byte) : State :=
  (s.setReg x result).setReg vf flag

end Sys2Proof.Machine
end

