-- ==== Sys2Proof/Machine/Operands.lean ====
section
/-! DEFINITION. The operand forms: the shift source, the register block V0 to Vx and its I post-increment, the HP48 range, the glyph addresses, the decimal digits, the key operands, and the sprite (spec/42_alu.md R192; spec/43_index_memory.md R221 to R230; spec/44_draw.md R251 to R253; spec/45_input_timers.md R270, R273). -/

namespace Sys2Proof.Machine

/-! ## Shifts -/

/-- `ShiftFromVy` (R192). -/
def State.shiftFromVy (s : State) : Bool := !s.altShift && decide (s.mode = .legacy)

/-- The value that 8xy6 and 8xyE shift (R189, R191). -/
def State.shiftSource (s : State) (x y : Reg) : Byte := if s.shiftFromVy then s.reg y else s.reg x

/-! ## Memory operands through I -/

/-- The `n` RAM addresses from I on, unmasked (R73, R221). -/
def State.indexAddrs (s : State) (n : Nat) : List Nat := (List.range n).map (fun k => s.i.toNat + k)

/-- `IncI` (R226). -/
def State.incIndex (s : State) : Bool := !(s.altStoreLoad || decide (s.mode = .extended))

/-- The post-increment of Fx55 and Fx65: I goes up by X + 1 when `IncI` holds (R226). -/
def State.advanceIndex (s : State) (x : Reg) : State :=
  if s.incIndex then s.setIndex (s.i + BitVec.ofNat 12 (x.val + 1)) else s

/-- V0 to Vx in order. -/
def State.regBlock (s : State) (x : Reg) : List Byte := s.v.toList.take (x.val + 1)

/-- V0 to Vx loaded from RAM at I (R228). -/
def State.loadBlock (s : State) (x : Reg) : State :=
  { s with v := Vector.ofFn fun k : Fin 16 =>
      if k.val ≤ x.val then s.readByte (s.i.toNat + k.val) else s.v[k.val] }

/-- The decimal digits of a byte, hundreds first (R225). -/
def bcdDigits (v : Byte) : List Byte :=
  [BitVec.ofNat 8 (v.toNat / 100), BitVec.ofNat 8 (v.toNat / 10 % 10), BitVec.ofNat 8 (v.toNat % 10)]

/-- The address of a small glyph: 0x000 + 5 * digit (R223). -/
def smallGlyphAddr (v : Byte) : Address := BitVec.ofNat 12 (5 * (v &&& 0xF#8).toNat)

/-- The address of a large glyph: 0x050 + 10 * digit (R224). -/
def largeGlyphAddr (v : Byte) : Address := BitVec.ofNat 12 (0x050 + 10 * (v &&& 0xF#8).toNat)

/-! ## The HP48 flag bytes -/

/-- The last register that Fx75 or Fx85 moves; none where `HP48_OOB = fault` refuses X (R229, R230). -/
def State.hp48Last? (s : State) (x : Reg) : Option (Fin 8) :=
  if h : x.val < 8 then some ⟨x.val, h⟩
  else match s.config.hp48Oob with
    | .fault => none
    | .clamp => some 7

/-- HP48[0] to HP48[n] written from V0 to Vn (R229). -/
def State.saveHp48 (s : State) (n : Fin 8) : State :=
  { s with hp48 := Vector.ofFn fun k : Fin 8 => if k.val ≤ n.val then s.v[k.val] else s.hp48[k.val] }

/-- V0 to Vn written from HP48[0] to HP48[n] (R230). -/
def State.loadHp48 (s : State) (n : Fin 8) : State :=
  { s with v := Vector.ofFn fun k : Fin 16 =>
      if h : k.val ≤ n.val then s.hp48[k.val]'(by omega) else s.v[k.val] }

/-! ## Keys -/

/-- `KeyIsDown(v)`: a key number of 16 or more is never down (R270). -/
def State.keyIsDown (s : State) (v : Byte) : Bool :=
  if h : v.toNat < 16 then decide (s.keyCur[v.toNat] = .down) else false

/-- The Legacy scan of Fx0A: the lowest Released key (R273). -/
def State.firstReleased (s : State) : Option (Fin 16) :=
  (List.finRange 16).find? (fun k => decide (s.keyCur[k.val] = .released))

/-- The Extended scan of Fx0A: it goes on after a match, so the highest Down key is found (R273). -/
def State.lastDown (s : State) : Option (Fin 16) :=
  (List.finRange 16).foldl (fun found k => if s.keyCur[k.val] = .down then some k else found) none

/-- The key that Fx0A finds, by mode (R273). -/
def State.foundKey (s : State) : Option (Fin 16) :=
  match s.mode with
  | .legacy => s.firstReleased
  | .extended => s.lastDown

/-! ## Sprites -/

/-- Whether each row of the sprite is two bytes wide: Extended mode with n = 0 (R251). -/
def State.wideSprite (s : State) (n : BitVec 4) : Bool := decide (s.mode = .extended) && decide (n = 0#4)

/-- The sprite's width in pixels (R251). -/
def State.spriteWidth (s : State) (n : BitVec 4) : Nat := if s.wideSprite n then 16 else 8

/-- The sprite's height in rows: n, or 16 for n = 0 (R251). -/
def spriteHeight (n : BitVec 4) : Nat := if n = 0#4 then 16 else n.toNat

/-- How many bytes the sprite takes from I on (R251). -/
def State.spriteBytes (s : State) (n : BitVec 4) : Nat :=
  if s.wideSprite n then 2 * spriteHeight n else spriteHeight n

/-- Row `r` of the sprite as a number of `spriteWidth` bits; of two bytes the first is the high one (R252). -/
def State.spriteRow (s : State) (n : BitVec 4) (r : Nat) : Nat :=
  if s.wideSprite n then
    256 * (s.readByte (s.i.toNat + 2 * r)).toNat + (s.readByte (s.i.toNat + 2 * r + 1)).toNat
  else (s.readByte (s.i.toNat + r)).toNat

/-- Whether the sprite has a 1 in column `c` of row `r`: the most significant bit is the leftmost pixel (R252). -/
def State.spriteBit (s : State) (n : BitVec 4) (c r : Nat) : Bool :=
  (s.spriteRow n r).testBit (s.spriteWidth n - 1 - c)

/-- The sprite's 1 pixels as (column, row), row by row (R255). -/
def State.spritePixels (s : State) (n : BitVec 4) : List VbCell :=
  (List.range (spriteHeight n)).flatMap fun r =>
    (List.range (s.spriteWidth n)).filterMap fun c => if s.spriteBit n c r then some (c, r) else none

/-- Where the sprite's top left pixel goes: only this origin wraps (R253). -/
def spriteOrigin (m : Mode) (vx vy : Byte) : VbCell :=
  match m with
  | .legacy => (vx.toNat % 64, vy.toNat % 32)
  | .extended => (vx.toNat % 128, vy.toNat % 64)

/-- The buffer cells that the pixel at (`px`, `py`) of the mode's grid covers: a 2 by 2 block in Legacy mode, one
cell in Extended mode, none outside the grid (R253). -/
def pixelCells (m : Mode) (px py : Nat) : List VbCell :=
  match m with
  | .legacy =>
    if px < 64 ∧ py < 32 then
      [(2 * px, 2 * py), (2 * px + 1, 2 * py), (2 * px, 2 * py + 1), (2 * px + 1, 2 * py + 1)]
    else []
  | .extended => if px < 128 ∧ py < 64 then [(px, py)] else []

/-- The buffer cells that Dxyn toggles, in the order of its scan (R255). -/
def State.spriteCells (s : State) (x y : Reg) (n : BitVec 4) : List VbCell :=
  (s.spritePixels n).flatMap fun p =>
    pixelCells s.mode ((spriteOrigin s.mode (s.reg x) (s.reg y)).1 + p.1)
      ((spriteOrigin s.mode (s.reg x) (s.reg y)).2 + p.2)

end Sys2Proof.Machine
end

