-- ==== Sys2Proof/Machine/Control.lean ====
section
/-! DEFINITION. Jumps, call and return, and the skips on registers (spec/41_control_flow.md). On entry PC holds A + 2 (R100). -/

namespace Sys2Proof.Machine

/-- 1nnn `JP nnn` (R150). -/
def execJp (nnn : Address) (s : State) : Result := .next (s.setPc nnn)

/-- 2nnn `CALL nnn` (R151). -/
def execCall (nnn : Address) (s : State) : Result :=
  match s.push? with
  | some t => .next (t.setPc nnn)
  | none => .next (s.raiseHalt (.stackOverflow s.instrAddr s.sp.val))

/-- 00EE `RET` (R152). -/
def execRet (s : State) : Result :=
  match s.pop? with
  | some t => .next t
  | none => .next (s.raiseHalt (.stackUnderflow s.instrAddr s.sp.val))

/-- 3xkk `SE Vx, kk` (R154). -/
def execSeImm (x : Reg) (kk : Byte) (s : State) : Result := .next (s.skipIf (decide (s.reg x = kk)))

/-- 4xkk `SNE Vx, kk` (R155). -/
def execSneImm (x : Reg) (kk : Byte) (s : State) : Result := .next (s.skipIf (decide (s.reg x ≠ kk)))

/-- 5xy0 `SE Vx, Vy` (R156). -/
def execSeReg (x y : Reg) (s : State) : Result := .next (s.skipIf (decide (s.reg x = s.reg y)))

/-- 9xy0 `SNE Vx, Vy` (R157). -/
def execSneReg (x y : Reg) (s : State) : Result := .next (s.skipIf (decide (s.reg x ≠ s.reg y)))

/-- Bnnn `JP V0, nnn` (R158): the sum is masked to 12 bits. -/
def execJpV0 (nnn : Address) (s : State) : Result := .next (s.setPc (nnn + (s.reg 0).setWidth 12))

end Sys2Proof.Machine
end

