-- ==== Sys2Proof/Machine/Draw.lean ====
section
/-! DEFINITION. The sprite draw (spec/44_draw.md). -/

namespace Sys2Proof.Machine

/-- The draw itself: the cells toggled, and VF whether any was 1 before its toggle (R254 to R256). -/
def State.drawSprite (s : State) (x y : Reg) (n : BitVec 4) : State :=
  let drawn := VideoBuffer.drawCells s.vb (s.spriteCells x y n)
  (s.setVb drawn.1).setReg vf (flagByte drawn.2)

/-- Dxyn `DRW Vx, Vy, n` (R255 to R257): coordinates are read before VF is cleared (D2), and every draw signals a frame. -/
def execDrw (x y : Reg) (n : BitVec 4) (s : State) : Result :=
  .next (s.guardAddrs (s.indexAddrs (s.spriteBytes n)) (s.drawSprite x y n).signalFrame)

end Sys2Proof.Machine
end

