-- ==== Sys2Proof/Machine/Index.lean ====
section
/-! DEFINITION. The index register, the glyph addresses, the block and decimal stores and loads, and the HP48 flags (spec/43_index_memory.md). -/

namespace Sys2Proof.Machine

/-- Annn `LD I, nnn` (R220). -/
def execLdIndex (nnn : Address) (s : State) : Result := .next (s.setIndex nnn)

/-- Fx1E `ADD I, Vx` (R222): modulo 4096, no flag. -/
def execAddIndex (x : Reg) (s : State) : Result := .next (s.setIndex (s.i + (s.reg x).setWidth 12))

/-- Fx29 `LD F, Vx` (R223). -/
def execLdFont (x : Reg) (s : State) : Result := .next (s.setIndex (smallGlyphAddr (s.reg x)))

/-- Fx30 `LD HF, Vx` (R224). -/
def execLdLargeFont (x : Reg) (s : State) : Result := .next (s.setIndex (largeGlyphAddr (s.reg x)))

/-- Fx33 `LD B, Vx` (R225). -/
def execStoreBcd (x : Reg) (s : State) : Result :=
  .next (s.guardAddrs (s.indexAddrs 3) (s.storeBytes s.i.toNat (bcdDigits (s.reg x))))

/-- Fx55 `LD [I], Vx` (R227). -/
def execStoreRegs (x : Reg) (s : State) : Result :=
  .next (s.guardAddrs (s.indexAddrs (x.val + 1)) ((s.storeBytes s.i.toNat (s.regBlock x)).advanceIndex x))

/-- Fx65 `LD Vx, [I]` (R228). -/
def execLoadRegs (x : Reg) (s : State) : Result :=
  .next (s.guardAddrs (s.indexAddrs (x.val + 1)) ((s.loadBlock x).advanceIndex x))

/-- Fx75 `LD R, Vx` (R229). -/
def execSaveFlags (x : Reg) (s : State) : Result :=
  match s.hp48Last? x with
  | some n => .next (s.saveHp48 n)
  | none => .next (s.raiseHalt (.hp48Range s.instrAddr x.val))

/-- Fx85 `LD Vx, R` (R230). -/
def execLoadFlags (x : Reg) (s : State) : Result :=
  match s.hp48Last? x with
  | some n => .next (s.loadHp48 n)
  | none => .next (s.raiseHalt (.hp48Range s.instrAddr x.val))

end Sys2Proof.Machine
end

