-- ==== Sys2Proof/Machine/Input.lean ====
section
/-! DEFINITION. The key skips, the wait for a key, and the timer registers (spec/45_input_timers.md). -/

namespace Sys2Proof.Machine

/-- Ex9E `SKP Vx` (R271). -/
def execSkp (x : Reg) (s : State) : Result := .next (s.skipIf (s.keyIsDown (s.reg x)))

/-- ExA1 `SKNP Vx` (R272). -/
def execSknp (x : Reg) (s : State) : Result := .next (s.skipIf (!s.keyIsDown (s.reg x)))

/-- Fx0A `LD Vx, K` (R273): without a qualifying key PC goes back to A, and a later step fetches it again. -/
def execWaitKey (x : Reg) (s : State) : Result :=
  match s.foundKey with
  | some k => .next (s.setReg x (BitVec.ofNat 8 k.val))
  | none => .next (s.setPc (s.pc - 2#12))

/-- Fx07 `LD Vx, DT` (R274). -/
def execLdFromDelay (x : Reg) (s : State) : Result := .next (s.setReg x s.dt)

/-- Fx15 `LD DT, Vx` (R275). -/
def execLdDelay (x : Reg) (s : State) : Result := .next { s with dt := s.reg x }

/-- Fx18 `LD ST, Vx` (R276): a value above 0 emits PlaySound. -/
def execLdSound (x : Reg) (s : State) : Result :=
  let t : State := { s with st := s.reg x }
  .next (if 0 < (s.reg x).toNat then t.emit .playSound else t)

end Sys2Proof.Machine
end

