-- ==== Sys2Proof/Machine/System.lean ====
section
/-! DEFINITION. The 0-group but for 00EE: display control, mode switches, EXIT and the ignored SYS (spec/40_system_display.md). Each meaning runs after the fetch has advanced PC (R100). -/

namespace Sys2Proof.Machine

/-- 00E0 `CLS` (R121). -/
def execCls (s : State) : Result := .next (s.setVb VideoBuffer.clear).signalFrame

/-- 00FB `SCR` (R122). -/
def execScr (s : State) : Result := .next (s.setVb (VideoBuffer.scrollRight s.vb)).signalFrame

/-- 00FC `SCL` (R123). -/
def execScl (s : State) : Result := .next (s.setVb (VideoBuffer.scrollLeft s.vb)).signalFrame

/-- 00Cn `SCD n` (R124). -/
def execScd (n : BitVec 4) (s : State) : Result :=
  .next (s.setVb (VideoBuffer.scrollDown s.vb n.toNat)).signalFrame

/-- 00FD `EXIT` (R125): the halt FINISH. -/
def execExit (s : State) : Result := .next (s.raiseHalt (.finish s.instrAddr))

/-- Writes the mode and clears VB, whether or not the mode changes, without a FrameReady event (R126). -/
def State.switchMode (s : State) (m : Mode) : State :=
  ({ s with mode := m }.setVb VideoBuffer.clear).requestRender

/-- 00FE `LOW` (R127). -/
def execLow (s : State) : Result := .next (s.switchMode .legacy)

/-- 00FF `HIGH` (R128). -/
def execHigh (s : State) : Result := .next (s.switchMode .extended)

/-- 0nnn `SYS nnn` (R129): nothing but the PC advance of the fetch, which has happened. -/
def execSys (_nnn : Address) (s : State) : Result := .next s

end Sys2Proof.Machine
end

