-- ==== Sys2Proof/WellFormed.lean ====
section
/-! DEFINITION. Which instruction terms the opcode table has words for. The operand types already bound every field, so the one check left is the constraint of row SYS (spec/30_encoding.md R97, spec/40_system_display.md R129). -/

namespace Sys2Proof

/-- 0nnn is SYS only when its X field (bits 11-8 of nnn) is not 0 (R97, R129). Every other constructor has a
word for every value of its operands. -/
def Instr.wellFormed : Instr → Bool
  | .sys nnn => nnn.extractLsb' 8 4 != 0#4
  | .cls | .ret | .scd _ | .scr | .scl | .exit | .low | .high => true
  | .jp _ | .call _ | .ldIndex _ | .jpV0 _ => true
  | .seImm _ _ | .sneImm _ _ | .ldImm _ _ | .addImm _ _ | .rnd _ _ => true
  | .seReg _ _ | .sneReg _ _ | .ldReg _ _ | .orReg _ _ | .andReg _ _ | .xorReg _ _ => true
  | .addReg _ _ | .subReg _ _ | .shrReg _ _ | .subnReg _ _ | .shlReg _ _ | .drw _ _ _ => true
  | .skp _ | .sknp _ | .ldFromDelay _ | .waitKey _ | .ldDelay _ | .ldSound _ => true
  | .addIndex _ | .ldFont _ | .ldLargeFont _ | .storeBcd _ | .storeRegs _ | .loadRegs _ => true
  | .saveFlags _ | .loadFlags _ => true

end Sys2Proof
end

