-- ==== Sys2Proof/Decode.lean ====
section
/-! DEFINITION. The decoder, total on every word and on every list of bytes, which rejects by name (spec/30_encoding.md R90 to R98), and after it the encoder, written from the layouts of R93 and the rows of spec/opcode_table.json. -/

namespace Sys2Proof

/-- Why bytes are no instruction. -/
inductive DecodeError where
  /-- The word is UNKNOWN by R96. -/
  | unknownOpcode (w : Opcode)
  /-- Fewer than the two bytes that every instruction has (R90). -/
  | truncated
deriving DecidableEq, Repr

/-! ## The fields of a word (R91) -/

/-- op = bits 15-12. -/
def opField (w : Opcode) : BitVec 4 := w.extractLsb' 12 4

/-- X = bits 11-8, as a register number. -/
def xField (w : Opcode) : Reg := (w.extractLsb' 8 4).toFin

/-- Y = bits 7-4, as a register number. -/
def yField (w : Opcode) : Reg := (w.extractLsb' 4 4).toFin

/-- N = bits 3-0. -/
def nField (w : Opcode) : BitVec 4 := w.extractLsb' 0 4

/-- KK = bits 7-0. -/
def kkField (w : Opcode) : Byte := w.extractLsb' 0 8

/-- NNN = bits 11-0. -/
def nnnField (w : Opcode) : Address := w.extractLsb' 0 12

/-! ## The decoder (R94) -/

/-- The 00xx words, those of major opcode 0 with X = 0. -/
def decodeSystem (w : Opcode) : Except DecodeError Instr :=
  if w.extractLsb' 4 4 = 0xC#4 then .ok (.scd (nField w))
  else match kkField w with
    | 0xE0#8 => .ok .cls
    | 0xEE#8 => .ok .ret
    | 0xFB#8 => .ok .scr
    | 0xFC#8 => .ok .scl
    | 0xFD#8 => .ok .exit
    | 0xFE#8 => .ok .low
    | 0xFF#8 => .ok .high
    | _ => .error (.unknownOpcode w)

/-- Major opcode 8, by N. -/
def decodeAlu (w : Opcode) : Except DecodeError Instr :=
  match nField w with
  | 0x0#4 => .ok (.ldReg (xField w) (yField w))
  | 0x1#4 => .ok (.orReg (xField w) (yField w))
  | 0x2#4 => .ok (.andReg (xField w) (yField w))
  | 0x3#4 => .ok (.xorReg (xField w) (yField w))
  | 0x4#4 => .ok (.addReg (xField w) (yField w))
  | 0x5#4 => .ok (.subReg (xField w) (yField w))
  | 0x6#4 => .ok (.shrReg (xField w) (yField w))
  | 0x7#4 => .ok (.subnReg (xField w) (yField w))
  | 0xE#4 => .ok (.shlReg (xField w) (yField w))
  | _ => .error (.unknownOpcode w)

/-- Major opcode E, by KK. -/
def decodeKey (w : Opcode) : Except DecodeError Instr :=
  match kkField w with
  | 0x9E#8 => .ok (.skp (xField w))
  | 0xA1#8 => .ok (.sknp (xField w))
  | _ => .error (.unknownOpcode w)

/-- Major opcode F, by KK. -/
def decodeMisc (w : Opcode) : Except DecodeError Instr :=
  match kkField w with
  | 0x07#8 => .ok (.ldFromDelay (xField w))
  | 0x0A#8 => .ok (.waitKey (xField w))
  | 0x15#8 => .ok (.ldDelay (xField w))
  | 0x18#8 => .ok (.ldSound (xField w))
  | 0x1E#8 => .ok (.addIndex (xField w))
  | 0x29#8 => .ok (.ldFont (xField w))
  | 0x30#8 => .ok (.ldLargeFont (xField w))
  | 0x33#8 => .ok (.storeBcd (xField w))
  | 0x55#8 => .ok (.storeRegs (xField w))
  | 0x65#8 => .ok (.loadRegs (xField w))
  | 0x75#8 => .ok (.saveFlags (xField w))
  | 0x85#8 => .ok (.loadFlags (xField w))
  | _ => .error (.unknownOpcode w)

/-- The decoder of R94: one instruction for every word, or UNKNOWN. It depends on the word alone. -/
def decodeWord (w : Opcode) : Except DecodeError Instr :=
  match opField w with
  | 0x0#4 => if w.extractLsb' 8 4 = 0#4 then decodeSystem w else .ok (.sys (nnnField w))
  | 0x1#4 => .ok (.jp (nnnField w))
  | 0x2#4 => .ok (.call (nnnField w))
  | 0x3#4 => .ok (.seImm (xField w) (kkField w))
  | 0x4#4 => .ok (.sneImm (xField w) (kkField w))
  | 0x5#4 => if nField w = 0#4 then .ok (.seReg (xField w) (yField w)) else .error (.unknownOpcode w)
  | 0x6#4 => .ok (.ldImm (xField w) (kkField w))
  | 0x7#4 => .ok (.addImm (xField w) (kkField w))
  | 0x8#4 => decodeAlu w
  | 0x9#4 => if nField w = 0#4 then .ok (.sneReg (xField w) (yField w)) else .error (.unknownOpcode w)
  | 0xA#4 => .ok (.ldIndex (nnnField w))
  | 0xB#4 => .ok (.jpV0 (nnnField w))
  | 0xC#4 => .ok (.rnd (xField w) (kkField w))
  | 0xD#4 => .ok (.drw (xField w) (yField w) (nField w))
  | 0xE#4 => decodeKey w
  | _ => decodeMisc w

/-- The word of two bytes in fetch order: the first byte is bits 15-8 (R74, R76). -/
def wordOfBytes (hi lo : Byte) : Opcode := hi ++ lo

/-- The two bytes of a word in fetch order. -/
def bytesOfWord (w : Opcode) : List Byte := [w.extractLsb' 8 8, w.extractLsb' 0 8]

/-- The decoder on bytes: it always consumes two (R90) and returns the rest. -/
def decodeBytes : List Byte → Except DecodeError (Instr × List Byte)
  | hi :: lo :: rest =>
    match decodeWord (wordOfBytes hi lo) with
    | .ok i => .ok (i, rest)
    | .error e => .error e
  | [_] => .error .truncated
  | [] => .error .truncated

/-! ## The encoder (R93) -/

/-- Layout `n`: the fixed bits 15-4 and the count. -/
def encodeCount (fixed : BitVec 12) (n : BitVec 4) : Opcode := fixed ++ n

/-- Layout `nnn`. -/
def encodeAddress (op : BitVec 4) (nnn : Address) : Opcode := op ++ nnn

/-- Layout `xkk`; with a fixed sub-opcode as `kk`, layout `x`. -/
def encodeByte (op : BitVec 4) (x : Reg) (kk : Byte) : Opcode := (op ++ BitVec.ofFin (w := 4) x) ++ kk

/-- Layout `xyn`; with a fixed sub-opcode as `n`, layout `xy`. -/
def encodeNibbles (op : BitVec 4) (x y : Reg) (n : BitVec 4) : Opcode :=
  ((op ++ BitVec.ofFin (w := 4) x) ++ BitVec.ofFin (w := 4) y) ++ n

/-- The word of an instruction. -/
def encode : Instr → Opcode
  | .cls => 0x00E0#16
  | .ret => 0x00EE#16
  | .scd n => encodeCount 0x00C#12 n
  | .scr => 0x00FB#16
  | .scl => 0x00FC#16
  | .exit => 0x00FD#16
  | .low => 0x00FE#16
  | .high => 0x00FF#16
  | .sys nnn => encodeAddress 0x0#4 nnn
  | .jp nnn => encodeAddress 0x1#4 nnn
  | .call nnn => encodeAddress 0x2#4 nnn
  | .seImm x kk => encodeByte 0x3#4 x kk
  | .sneImm x kk => encodeByte 0x4#4 x kk
  | .seReg x y => encodeNibbles 0x5#4 x y 0x0#4
  | .ldImm x kk => encodeByte 0x6#4 x kk
  | .addImm x kk => encodeByte 0x7#4 x kk
  | .ldReg x y => encodeNibbles 0x8#4 x y 0x0#4
  | .orReg x y => encodeNibbles 0x8#4 x y 0x1#4
  | .andReg x y => encodeNibbles 0x8#4 x y 0x2#4
  | .xorReg x y => encodeNibbles 0x8#4 x y 0x3#4
  | .addReg x y => encodeNibbles 0x8#4 x y 0x4#4
  | .subReg x y => encodeNibbles 0x8#4 x y 0x5#4
  | .shrReg x y => encodeNibbles 0x8#4 x y 0x6#4
  | .subnReg x y => encodeNibbles 0x8#4 x y 0x7#4
  | .shlReg x y => encodeNibbles 0x8#4 x y 0xE#4
  | .sneReg x y => encodeNibbles 0x9#4 x y 0x0#4
  | .ldIndex nnn => encodeAddress 0xA#4 nnn
  | .jpV0 nnn => encodeAddress 0xB#4 nnn
  | .rnd x kk => encodeByte 0xC#4 x kk
  | .drw x y n => encodeNibbles 0xD#4 x y n
  | .skp x => encodeByte 0xE#4 x 0x9E#8
  | .sknp x => encodeByte 0xE#4 x 0xA1#8
  | .ldFromDelay x => encodeByte 0xF#4 x 0x07#8
  | .waitKey x => encodeByte 0xF#4 x 0x0A#8
  | .ldDelay x => encodeByte 0xF#4 x 0x15#8
  | .ldSound x => encodeByte 0xF#4 x 0x18#8
  | .addIndex x => encodeByte 0xF#4 x 0x1E#8
  | .ldFont x => encodeByte 0xF#4 x 0x29#8
  | .ldLargeFont x => encodeByte 0xF#4 x 0x30#8
  | .storeBcd x => encodeByte 0xF#4 x 0x33#8
  | .storeRegs x => encodeByte 0xF#4 x 0x55#8
  | .loadRegs x => encodeByte 0xF#4 x 0x65#8
  | .saveFlags x => encodeByte 0xF#4 x 0x75#8
  | .loadFlags x => encodeByte 0xF#4 x 0x85#8

/-- The instruction the decoder reads from bits numbered as spec/opcode_table.json numbers them. Every
instruction is one word (R90), so the bits of a row are bits 15-0 of that word, laid out high byte first. -/
def decodeTableWord (nbits w : Nat) : Option Instr :=
  match decodeBytes (bytesOfWord (BitVec.ofNat 16 (w % 2 ^ nbits))) with
  | .ok (i, _) => some i
  | .error _ => none

end Sys2Proof
end

