-- ==== Sys2Proof/Machine/Tick.lean ====
section
/-! DEFINITION. Everything a step does around an instruction: the keypad update, the timer step, the tick, the stop and start sequences, and the host's commands (spec/60_exceptions.md R300 to R342; spec/70_reset_and_hazards.md R350 to R364). -/

namespace Sys2Proof.Machine

/-! ## The keypad update and the timer step -/

/-- One key's transition in `InputUpdate` (R325). -/
def updatedKey (prev cur : KeyState) : KeyState :=
  if prev = .down ∧ cur = .up then .released
  else if cur = .released then .up
  else cur

/-- `InputUpdate()` (R325): every key's transition, then KeyPrev records the state after it (D11). -/
def State.inputUpdate (s : State) : State :=
  let keys : Vector KeyState 16 := Vector.ofFn fun k : Fin 16 => updatedKey s.keyPrev[k.val] s.keyCur[k.val]
  { s with keyCur := keys, keyPrev := keys }

/-- A timer counted down by at most one, stopping at 0 (R320, R322). -/
def decremented (t : Byte) : Byte := if 0 < t.toNat then t - 1#8 else t

/-- `TimerStep()` (R320): StopSound only where ST goes from 1 to 0 (R321). -/
def State.timerStep (s : State) : State :=
  let t : State := { s with dt := decremented s.dt, st := decremented s.st }
  if s.st = 1#8 then t.emit .stopSound else t

/-! ## The stop sequence -/

/-- `StopSequence(cause)` (R357): the Error event of a fatal halt, VB cleared, one final frame, Lifecycle Stopped.
The destroyed state stays as the snapshot of R56. No StopSound is emitted (D31). -/
def State.stopSequence (s : State) (cause : Option Halt) : State :=
  let reported : State := match cause with
    | some h => if h.isFatal then s.emit (.error h) else s
    | none => s
  let cleared := (reported.setVb VideoBuffer.clear).emit (.frameReady VideoBuffer.clear)
  { cleared with lifecycle := .stopped, inTick := false }.emit (.stateChanged .stopped)

/-! ## The tick (R361) -/

/-- The start of a tick: the halt-for-render flag and the step count are cleared. -/
def State.beginTick (s : State) : State := { s with haltForRender := false, stepCount := 0, inTick := true }

/-- The end of a tick's batch: the timer step, and no tick in progress. -/
def State.endTick (s : State) : State := { s.timerStep with inTick := false }

/-- What follows an instruction inside a tick: after a halt the stop sequence and nothing else (D15); else the
keypad update and the count, and the tick ends after 1024 steps or where the instruction set the
halt-for-render flag (R362). -/
def State.afterInstr (s : State) : State :=
  if s.stopReq then s.stopSequence s.halt
  else
    let t : State := { s.inputUpdate with stepCount := s.stepCount + 1 }
    if s.haltForRender || decide (instrPerTick ≤ s.stepCount + 1) then t.endTick else t

/-- The halt of an unknown word, raised after PC has advanced (R96, R100). -/
def State.unknownOpcodeHalt (s : State) (w : Opcode) : State :=
  s.raiseHalt (.unknownOpcode w s.instrAddr ((s.instrAddr.toNat : Int) - (romBase : Int)))

/-- The halt of a fetch that `ADDR_OOB = fault` refuses, raised before PC advances (R304). -/
def State.fetchHalt (s : State) (bad : Nat) : State := s.raiseHalt (.addrRange s.pc bad)

/-- PC advanced past the fetched word (R35, R100). -/
def State.advancePc (s : State) : State := s.setPc (s.pc + 2#12)

/-! ## The start sequence (R351) -/

/-- A command is accepted: Lifecycle becomes LoadingROM and the request is held until it is served. -/
def State.beginLoad (s : State) (r : LoadRequest) : State :=
  { s with lifecycle := .loadingROM, loading := some r }.emit (.stateChanged .loadingROM)

/-- `LoadROM(bytes)` (R79): byte `k` of the ROM goes to `a` + `k`. The addresses differ, so the order of the writes
does not matter; the last byte is written first. -/
def Memory.loadRom (c : Config) : Nat → List Byte → Memory → Memory
  | _, [], m => m
  | a, x :: xs, m => Memory.write c (Memory.loadRom c (a + 1) xs m) a x

/-- The start of a run (R351, R353): every piece of CPU, memory and input state has its start-of-run value (R57),
the ROM is in place and the settings are the Run command's. Nothing of an earlier run is left but the channels. -/
def State.startRun (s : State) (rom : List Byte) (altShift altStoreLoad : Bool) : State :=
  { State.reset with
    mem := Memory.loadRom s.config romBase rom []
    altShift := altShift
    altStoreLoad := altStoreLoad
    lifecycle := .running
    events := s.events
    commands := s.commands
    arrivals := s.arrivals
    draws := s.draws
    config := s.config }.emit (.stateChanged .running)

/-- `LoadFailure()` (R352). -/
def State.loadFailure (s : State) : State :=
  ({ s with lifecycle := .stopped, loading := none }.emit .loadError).emit (.stateChanged .stopped)

/-- The rest of the start sequence: the run starts, or the load has failed because the ROM cannot be obtained or is
longer than 3584 bytes (R351, R352). -/
def State.finishLoad (s : State) : State :=
  match s.loading with
  | some ⟨.bytes rom, altShift, altStoreLoad⟩ =>
    if rom.length ≤ romMax then s.startRun rom altShift altStoreLoad else s.loadFailure
  | some ⟨.unobtainable, _, _⟩ => s.loadFailure
  | none => s.loadFailure

/-! ## Host commands (R330 to R337) -/

/-- `SetKey(key, state)` (R326): KeyPrev is not written. -/
def State.setKey (s : State) (k : Fin 16) (x : KeyState) : State := { s with keyCur := s.keyCur.set k.val x }

/-- `Run` (R331): accepted only while Stopped, ignored with a parameter missing (R336). -/
def State.commandRun (s : State) (rom : Option Rom) (altShift altStoreLoad : Option Bool) : State :=
  match s.lifecycle, rom, altShift, altStoreLoad with
  | .stopped, some r, some a, some b => s.beginLoad ⟨r, a, b⟩
  | _, _, _, _ => s

/-- `Stop` (R335): effective only while Running. -/
def State.commandStop (s : State) : State :=
  if s.lifecycle = .running then s.stopSequence none else s

/-- `SetSettings` (R333): effective only while Running, ignored with a parameter missing (R336). -/
def State.commandSetSettings (s : State) (altShift altStoreLoad : Option Bool) : State :=
  match s.lifecycle, altShift, altStoreLoad with
  | .running, some a, some b => { s with altShift := a, altStoreLoad := b }
  | _, _, _ => s

/-- `SendInput` (R332): effective only while Running, ignored for a key outside 0 to 15 or a state that is none of
the three (D34). -/
def State.commandSendInput (s : State) (key : Option Nat) (state : Option KeyState) : State :=
  match s.lifecycle, key, state with
  | .running, some k, some x => if h : k < 16 then s.setKey ⟨k, h⟩ x else s
  | _, _, _ => s

/-- The effect of one command, whole (R337). -/
def State.applyCommand (s : State) : Command → State
  | .run rom altShift altStoreLoad => s.commandRun rom altShift altStoreLoad
  | .stop => s.commandStop
  | .setSettings altShift altStoreLoad => s.commandSetSettings altShift altStoreLoad
  | .sendInput key state => s.commandSendInput key state

/-- The next batch of the host's commands reaches the channel (assumption 6). -/
def State.receive (s : State) : State :=
  match s.arrivals with
  | [] => s
  | batch :: rest => { s with commands := s.commands ++ batch, arrivals := rest }

/-- A step between two ticks while Running (R364): the oldest pending command is applied; with none pending the
next tick begins, and what the host sends during it reaches the channel. -/
def State.betweenTicks (s : State) : State :=
  match s.commands with
  | c :: rest => State.applyCommand { s with commands := rest } c
  | [] => s.receive.beginTick

/-- A step while Stopped (R350): the oldest pending command is applied; with none pending the machine waits. -/
def State.idle (s : State) : State :=
  match s.commands with
  | c :: rest => State.applyCommand { s with commands := rest } c
  | [] => s.receive

end Sys2Proof.Machine
end

