-- ==== Sys2Proof/Machine/Cycle.lean ====
section
/-! DEFINITION. One cycle of the machine, which `step` is, and the placing of one instruction where the cycle fetches it (spec/30_encoding.md R100; spec/70_reset_and_hazards.md R350 to R364). -/

namespace Sys2Proof.Machine

/-- `Step()` of R100: fetch, PC advance, decode, execute. -/
def State.instruction (s : State) : Result :=
  match s.fetchWord with
  | .error bad => .next (s.fetchHalt bad)
  | .ok w =>
    match decodeWord w with
    | .ok i => exec i s.advancePc
    | .error _ => .next (s.advancePc.unknownOpcodeHalt w)

/-- One turn of the tick's loop (R361). -/
def State.tickStep (s : State) : Result :=
  if s.stepCount < instrPerTick then
    match s.instruction with
    | .next t => .next t.afterInstr
    | .fault r => .fault r
    | .refused r => .refused r
  else .next s.endTick

/-- One cycle: an instruction inside a tick; between ticks one host command or the start of the next tick; the
ROM load while LoadingROM; one host command or waiting while Stopped. -/
def State.cycle (s : State) : Result :=
  match s.inTick, s.lifecycle with
  | true, .running => s.tickStep
  | true, .stopped => .fault .tickWithoutCpu
  | true, .loadingROM => .fault .tickWithoutCpu
  | false, .running => .next s.betweenTicks
  | false, .loadingROM => .next s.finishLoad
  | false, .stopped => .next s.idle

/-- The state at the start of a tick of a run, with a word stored high byte first at PC. -/
def State.placeWord (s : State) (w : Opcode) : State :=
  State.storeBytes { s.beginTick with lifecycle := .running, stopReq := false } s.pc.toNat (bytesOfWord w)

end Sys2Proof.Machine
end

