-- ==== Sys2Proof/Safety.lean ====
section
/-! DEFINITION. The terms the statements use: the invariant of every reachable state, the frames (what an instruction leaves unchanged), the writers of registers and PC and the causes of halts (spec/10_state.md R33, R36; spec/60_exceptions.md R301), the unknown words of R96, and where a sprite's pixels fall (spec/10_state.md; spec/30_encoding.md R96; spec/44_draw.md R251 to R255). -/

namespace Sys2Proof.Machine

/-! ## The invariant -/

/-- What holds in every state that a run reaches. -/
structure State.Inv (s : State) : Prop where
  /-- RAM keeps its canonical form, with no address outside 0x000 to 0xFFF (R70). -/
  memory : Memory.wf s.config s.mem
  /-- Bits 15-12 of every stack entry are 0 (R39). -/
  stackEntries : ∀ k : Fin 16, (s.stack[k.val]).toNat < 4096
  /-- Under `STACK_OOB = wrap` SP is taken mod 16 (R151). -/
  ring : s.config.stackOob = .wrap → s.sp.val < 16
  /-- A tick runs only while Running (R361); inside it the 1024 steps are not used up and no instruction of it has
  set the halt-for-render flag (R362). -/
  tick : s.inTick = true → s.lifecycle = .running ∧ s.stepCount < 1024 ∧ s.haltForRender = false
  /-- The step count is 0 to 1024 (R54). -/
  count : s.stepCount ≤ 1024
  /-- While a run proceeds no halt is recorded and no stop is requested (R49). -/
  proceeding : s.lifecycle = .running → s.stopReq = false ∧ s.halt = none
  /-- A Run request is held exactly while LoadingROM (R351). -/
  request : s.loading.isSome = true ↔ s.lifecycle = .loadingROM

/-! ## Frames -/

/-- Every general register but the listed ones is unchanged. -/
def KeepsRegsBut (s t : State) (changed : List Reg) : Prop := ∀ r : Reg, r ∉ changed → t.reg r = s.reg r

/-- Every byte of RAM is unchanged. -/
def KeepsRam (s t : State) : Prop := ∀ a : Nat, t.readByte a = s.readByte a

/-- Every byte of RAM is unchanged but those at `base`, `base + 1`, … `base + n - 1`, each reduced to the size of
RAM (R73). -/
def KeepsRamBut (s t : State) (base n : Nat) : Prop :=
  ∀ a : Nat, a < ramSize → (∀ k : Nat, k < n → a ≠ wrapAddr (base + k)) → t.readByte a = s.readByte a

/-- Nothing but general registers changed: not I, PC, the stack, the HP48 bytes, the timers, the mode, the
settings, RAM, VB, the keys, the control state or the channels. -/
def OnlyRegs (s t : State) : Prop := t = { s with v := t.v } ∧ KeepsRam s t

/-- Nothing but PC changed. -/
def OnlyPc (s t : State) : Prop := t = { s with pc := t.pc } ∧ KeepsRegsBut s t [] ∧ KeepsRam s t

/-- Nothing but I changed; VF in particular did not. -/
def OnlyIndex (s t : State) : Prop := t = { s with i := t.i } ∧ KeepsRegsBut s t [] ∧ KeepsRam s t

/-- Nothing changed but VB, the events and the halt-for-render flag. -/
def OnlyVideo (s t : State) : Prop :=
  t = { s with vb := t.vb, events := t.events, haltForRender := t.haltForRender } ∧
    KeepsRegsBut s t [] ∧ KeepsRam s t

/-- Nothing but RAM changed. -/
def OnlyRam (s t : State) : Prop := t = { s with mem := t.mem } ∧ KeepsRegsBut s t []

/-- The instruction raised this halt and wrote nothing else (R300, R305). -/
def HaltedBy (s t : State) (h : Halt) : Prop := t = { s with halt := some h, stopReq := true }

/-! ## Writers -/

/-- The general registers an instruction may write (R31 to R33): its destination, VF where it sets the flag, the block
V0 to Vx of Fx65, and of Fx85 only below V8. -/
def WritesReg (i : Instr) (r : Reg) : Prop :=
  match i with
  | .ldImm x _ | .addImm x _ | .rnd x _ | .ldFromDelay x | .waitKey x => r = x
  | .ldReg x _ | .orReg x _ | .andReg x _ | .xorReg x _ => r = x
  | .addReg x _ | .subReg x _ | .shrReg x _ | .subnReg x _ | .shlReg x _ => r = x ∨ r = 15
  | .drw _ _ _ => r = 15
  | .loadRegs x => r ≤ x
  | .loadFlags x => r ≤ x ∧ r.val < 8
  | .cls | .ret | .scd _ | .scr | .scl | .exit | .low | .high | .sys _ | .jp _ | .call _ => False
  | .seImm _ _ | .sneImm _ _ | .seReg _ _ | .sneReg _ _ | .ldIndex _ | .jpV0 _ | .skp _ | .sknp _ => False
  | .ldDelay _ | .ldSound _ | .addIndex _ | .ldFont _ | .ldLargeFont _ | .storeBcd _ | .storeRegs _ => False
  | .saveFlags _ => False

/-- The instructions that may leave PC elsewhere than the fetch did: the rows of R36's table. -/
def WritesPc : Instr → Prop
  | .jp _ | .call _ | .ret | .jpV0 _ | .waitKey _ => True
  | .seImm _ _ | .sneImm _ _ | .seReg _ _ | .sneReg _ _ | .skp _ | .sknp _ => True
  | .cls | .scd _ | .scr | .scl | .exit | .low | .high | .sys _ => False
  | .ldImm _ _ | .addImm _ _ | .rnd _ _ | .ldReg _ _ | .orReg _ _ | .andReg _ _ | .xorReg _ _ => False
  | .addReg _ _ | .subReg _ _ | .shrReg _ _ | .subnReg _ _ | .shlReg _ _ | .drw _ _ _ => False
  | .ldIndex _ | .addIndex _ | .ldFont _ | .ldLargeFont _ | .storeBcd _ | .storeRegs _ | .loadRegs _ => False
  | .saveFlags _ | .loadFlags _ | .ldFromDelay _ | .ldDelay _ | .ldSound _ => False

/-- Whether the instruction, executed with PC already advanced, can raise this halt: the table of R301, each with the
information it records. The causes of the fetch and of the decoder are no instruction's. -/
def CauseOf (i : Instr) (s : State) (h : Halt) : Prop :=
  match h with
  | .finish a => a = s.pc - 2#12 ∧ i = .exit
  | .unknownOpcode _ _ _ => False
  | .stackOverflow a sp => a = s.pc - 2#12 ∧ sp = 16 ∧ s.sp.val = 16 ∧ ∃ nnn, i = .call nnn
  | .stackUnderflow a sp => a = s.pc - 2#12 ∧ sp = 0 ∧ s.sp.val = 0 ∧ i = .ret
  | .hp48Range a x => a = s.pc - 2#12 ∧ 8 ≤ x ∧ ∃ r : Reg, r.val = x ∧ (i = .saveFlags r ∨ i = .loadFlags r)
  | .addrRange a bad => a = s.pc - 2#12 ∧ ramSize ≤ bad ∧
      ((∃ x, i = .storeBcd x ∨ i = .storeRegs x ∨ i = .loadRegs x) ∨ ∃ x y n, i = .drw x y n)

/-! ## Words -/

/-- The table of R96: the words that are no instruction. -/
def UnknownWord (w : Opcode) : Prop :=
  let n := w.toNat
  n ≤ 0x00BF ∨ (0x00D0 ≤ n ∧ n ≤ 0x00DF) ∨ (0x00E1 ≤ n ∧ n ≤ 0x00ED) ∨ n = 0x00EF ∨
  (0x00F0 ≤ n ∧ n ≤ 0x00FA) ∨
  (n / 4096 = 5 ∧ n % 16 ≠ 0) ∨
  (n / 4096 = 8 ∧ n % 16 ∈ [0x8, 0x9, 0xA, 0xB, 0xC, 0xD, 0xF]) ∨
  (n / 4096 = 9 ∧ n % 16 ≠ 0) ∨
  (n / 4096 = 14 ∧ n % 256 ∉ [0x9E, 0xA1]) ∨
  (n / 4096 = 15 ∧ n % 256 ∉ [0x07, 0x0A, 0x15, 0x18, 0x1E, 0x29, 0x30, 0x33, 0x55, 0x65, 0x75, 0x85])

/-! ## Sprites -/

/-- Whether the sprite at I has a 1 in column `c` of row `r`, for a sprite of height `h` whose rows are one byte
wide, or two when `wide` (R251, R252). False outside the sprite. -/
def SpriteHas (s : State) (wide : Bool) (h c r : Nat) : Bool :=
  decide (r < h) &&
    (if wide then
      (if c < 8 then (s.readByte (s.i.toNat + 2 * r)).getLsbD (7 - c)
       else decide (c < 16) && (s.readByte (s.i.toNat + 2 * r + 1)).getLsbD (15 - c))
    else decide (c < 8) && (s.readByte (s.i.toNat + r)).getLsbD (7 - c))

/-- Whether Dxyn toggles the cell (`cx`, `cy`) of the buffer: the pixel of the mode's grid that covers the cell,
counted from the wrapped origin, is a 1 of the sprite (R253, R255). -/
def DrawHits (s : State) (x y : Reg) (n : BitVec 4) (cx cy : Nat) : Bool :=
  let h := if n = 0#4 then 16 else n.toNat
  match s.mode with
  | .legacy =>
    let ox := (s.reg x).toNat % 64
    let oy := (s.reg y).toNat % 32
    decide (ox ≤ cx / 2) && decide (oy ≤ cy / 2) && SpriteHas s false h (cx / 2 - ox) (cy / 2 - oy)
  | .extended =>
    let ox := (s.reg x).toNat % 128
    let oy := (s.reg y).toNat % 64
    decide (ox ≤ cx) && decide (oy ≤ cy) && SpriteHas s (decide (n = 0#4)) h (cx - ox) (cy - oy)

end Sys2Proof.Machine
end

