-- ==== Sys2Proof/Certificates/Slice0/Obligations.lean ====
section
/-! DEFINITION. The statements for the provers, in the order of OBLIGATIONS.json. -/

open Sys2Proof Sys2Proof.Machine

/-! ## Encoding -/

/-- Every instruction that has a word is read back from it, every operand at every value (30_encoding.md sections 1
and 2). -/
def Obligations.DecodeOfEncodeIsTheInstruction : Prop :=
  ∀ i : Instr, i.wellFormed = true → decodeWord (encode i) = .ok i

/-- A word has one meaning: whatever the decoder reads is well-formed and encodes back to that very word. -/
def Obligations.EncodeOfDecodeIsTheWord : Prop :=
  ∀ (w : Opcode) (i : Instr), decodeWord w = .ok i → i.wellFormed = true ∧ encode i = w

/-- Words written out from the encodings of R93 decode to the instructions they stand for. -/
def Obligations.SampleWordsDecode : Prop :=
  decodeWord 0b0000000011100000#16 = .ok .cls ∧
  decodeWord 0b0000000011001001#16 = .ok (.scd 9#4) ∧
  decodeWord 0b0000000100100011#16 = .ok (.sys 0x123#12) ∧
  decodeWord 0b0010001101000101#16 = .ok (.call 0x345#12) ∧
  decodeWord 0b0011101001011100#16 = .ok (.seImm 10 0x5C#8) ∧
  decodeWord 0b1000000100101110#16 = .ok (.shlReg 1 2) ∧
  decodeWord 0b1010111100000001#16 = .ok (.ldIndex 0xF01#12) ∧
  decodeWord 0b1101001111110101#16 = .ok (.drw 3 15 5#4) ∧
  decodeWord 0b1110011110100001#16 = .ok (.sknp 7) ∧
  decodeWord 0b1111110001010101#16 = .ok (.storeRegs 12)

/-- The decoder is total, and the words it rejects, each by name, are exactly those of R96's table. -/
def Obligations.RejectedWordsAreTheUnknownTable : Prop :=
  ∀ w : Opcode,
    (UnknownWord w → decodeWord w = .error (.unknownOpcode w)) ∧
    (¬ UnknownWord w → ∃ i : Instr, decodeWord w = .ok i)

/-! ## Fetch and step -/

/-- The word fetched at PC, first byte high, where no address policy refuses it. That at PC = 0xFFF the second byte
comes from address 0 is the spec's own decision D6 (assumption 11); that an odd PC is fetched like an even one is its
decision D23 (assumption 23). -/
def Obligations.FetchReadsTheHighByteFirst : Prop :=
  ∀ s : State, s.config.addrOob = .wrap ∨ s.pc.toNat < 0xFFF →
    ∃ w : Opcode, s.fetchWord = .ok w ∧
      w.toNat = 256 * (s.readByte s.pc.toNat).toNat + (s.readByte ((s.pc.toNat + 1) % 4096)).toNat

/-- A step inside a tick runs the instruction that the bytes at PC decode to, with PC advanced by 2 before it and
`afterInstr` after it (R100, R361). That one step of the model takes both together, although R100's Step does not hold
the keypad update and the rest of R361, is the model's own choice (assumption 34). -/
def Obligations.StepRunsTheDecodedInstruction : Prop :=
  ∀ (s : State) (w : Opcode) (i : Instr),
    s.inTick = true → s.lifecycle = .running → s.stepCount < 1024 →
    s.fetchWord = .ok w → decodeWord w = .ok i →
    step s = match exec i { s with pc := s.pc + 2#12 } with
      | .next t => .next t.afterInstr
      | .fault r => .fault r
      | .refused r => .refused r

/-- What follows an instruction that did not halt: the keypad update, the count, and at the end of the batch (the
halt-for-render flag, or 1024 steps) the timer step; nothing else (R361, R362). That the keypad update follows the
instruction, and when KeyPrev is written, are the spec's own decisions D10 and D11 (assumption 17); that StopSound comes
only where ST goes from 1 to 0 is its decision D14 (assumption 22). -/
def Obligations.AfterAnInstructionKeysCountAndTimers : Prop :=
  ∀ t : State, t.stopReq = false →
    t.afterInstr.keyPrev = t.afterInstr.keyCur ∧
    (∀ k : Fin 16, t.afterInstr.keyCur[k.val] =
      if t.keyPrev[k.val] = .down ∧ t.keyCur[k.val] = .up then .released
      else if t.keyCur[k.val] = .released then .up else t.keyCur[k.val]) ∧
    t.afterInstr.stepCount = t.stepCount + 1 ∧
    (t.haltForRender = true ∨ 1024 ≤ t.stepCount + 1 →
      t.afterInstr.inTick = false ∧
      t.afterInstr.dt.toNat = t.dt.toNat - 1 ∧ t.afterInstr.st.toNat = t.st.toNat - 1 ∧
      t.afterInstr.events = t.events ++ (if t.st.toNat = 1 then [.stopSound] else [])) ∧
    (¬ (t.haltForRender = true ∨ 1024 ≤ t.stepCount + 1) →
      t.afterInstr.inTick = t.inTick ∧ t.afterInstr.dt = t.dt ∧ t.afterInstr.st = t.st ∧
      t.afterInstr.events = t.events) ∧
    t.afterInstr = { t with
      keyCur := t.afterInstr.keyCur, keyPrev := t.afterInstr.keyPrev, stepCount := t.afterInstr.stepCount,
      inTick := t.afterInstr.inTick, dt := t.afterInstr.dt, st := t.afterInstr.st, events := t.afterInstr.events }

/-- What follows a halt: the stop sequence alone, with an Error event unless the halt is FINISH; no keypad update, no
count, no timer step and no StopSound. The other fields stay as the snapshot (assumption 8). The spec's own decisions:
D15 (the tick ends at once, assumption 17), D31 (no StopSound, assumption 22), D33 (the Error event, assumption 20).
-/
def Obligations.AfterAHaltOnlyTheStopSequence : Prop :=
  ∀ (t : State) (h : Halt), t.stopReq = true → t.halt = some h →
    (∀ x y : Nat, VideoBuffer.getPixel t.afterInstr.vb x y = false) ∧
    VideoBuffer.payload t.afterInstr.vb = List.replicate 8192 0#8 ∧
    t.afterInstr.events = t.events ++ (if h.code = 0 then [] else [.error h]) ++
      [.frameReady t.afterInstr.vb, .stateChanged .stopped] ∧
    t.afterInstr = { t with
      vb := t.afterInstr.vb, events := t.afterInstr.events, lifecycle := .stopped, inTick := false }

/-- R96: an unknown word ends the run with the Error event that names the word, its address and its ROM-relative
address; no register, no RAM byte and no timer is written. The other fields stay as the snapshot (D35, assumption 8).
The spec's own decisions: D33 and D27 (the Error event and the address in it, assumption 20), D15 (no keypad update,
no count and no timer step, assumption 17), D31 (no StopSound, assumption 22). That the stop sequence belongs to the
same step is the model's (assumption 34). -/
def Obligations.UnknownWordEndsTheRun : Prop :=
  ∀ (s : State) (w : Opcode),
    s.inTick = true → s.lifecycle = .running → s.stepCount < 1024 →
    s.fetchWord = .ok w → UnknownWord w →
    ∃ t : State, step s = .next t ∧
      t.halt = some (.unknownOpcode w s.pc ((s.pc.toNat : Int) - 512)) ∧
      t.events = s.events ++
        [.error (.unknownOpcode w s.pc ((s.pc.toNat : Int) - 512)), .frameReady VideoBuffer.clear, .stateChanged .stopped] ∧
      t = { s with
        pc := s.pc + 2#12, vb := VideoBuffer.clear, halt := t.halt, stopReq := true,
        events := t.events, lifecycle := .stopped, inTick := false }

/-- Under `ADDR_OOB = fault` a fetch at PC = 0xFFF halts with ADDR_RANGE before anything is decoded (R304). The other
fields stay as the snapshot (D35, assumption 8). The spec's own decisions: D6 (the policy, assumption 11), D33 (the
Error event, assumption 20), D15 (no keypad update, no count and no timer step, assumption 17), D31 (no StopSound,
assumption 22). That the stop sequence belongs to the same step is the model's (assumption 34). -/
def Obligations.FetchPastRamEndsTheRun : Prop :=
  ∀ s : State,
    s.inTick = true → s.lifecycle = .running → s.stepCount < 1024 →
    s.config.addrOob = .fault → s.pc = 0xFFF#12 →
    ∃ t : State, step s = .next t ∧
      t.events = s.events ++
        [.error (.addrRange 0xFFF#12 0x1000), .frameReady VideoBuffer.clear, .stateChanged .stopped] ∧
      t = { s with
        vb := VideoBuffer.clear, halt := some (.addrRange 0xFFF#12 0x1000), stopReq := true,
        events := t.events, lifecycle := .stopped, inTick := false }

/-- R125: 00FD raises the halt FINISH; the step that executes it ends the run without an Error event, and neither the
timers nor the keys are touched. That the timers, keys and registers keep their values is the snapshot (D35, assumption
8). The spec's own decisions: D15 (the tick ends at once, assumption 17), D31 (no StopSound even where ST is above 0,
assumption 22). That the stop sequence belongs to the same step is the model's (assumption 34). -/
def Obligations.ExitEndsTheRunWithoutError : Prop :=
  (∀ s : State, ∃ t : State, exec .exit s = .next t ∧ HaltedBy s t (.finish (s.pc - 2#12))) ∧
  (∀ s : State,
    s.inTick = true → s.lifecycle = .running → s.stepCount < 1024 → s.fetchWord = .ok 0x00FD#16 →
    ∃ t : State, step s = .next t ∧ t.lifecycle = .stopped ∧ t.halt = some (.finish s.pc) ∧
      t.events = s.events ++ [.frameReady VideoBuffer.clear, .stateChanged .stopped] ∧
      t.dt = s.dt ∧ t.st = s.st ∧ t.keyCur = s.keyCur ∧ t.keyPrev = s.keyPrev ∧ t.v = s.v)

/-! ## System and display -/

/-- R121: 00E0 clears every cell, emits the cleared frame of 8192 zero bytes and sets the halt-for-render flag. -/
def Obligations.ClsClearsAndSignalsAFrame : Prop :=
  ∀ s : State, ∃ t : State, exec .cls s = .next t ∧
    (∀ x y : Nat, VideoBuffer.getPixel t.vb x y = false) ∧
    VideoBuffer.payload t.vb = List.replicate 8192 0#8 ∧
    t.events = s.events ++ [.frameReady t.vb] ∧ t.haltForRender = true ∧ OnlyVideo s t

/-- R122: 00FB moves every cell 4 columns right. -/
def Obligations.ScrMovesTheBufferRight : Prop :=
  ∀ s : State, ∃ t : State, exec .scr s = .next t ∧
    (∀ x y : Nat, x < 128 → y < 64 →
      VideoBuffer.getPixel t.vb x y = if 4 ≤ x then VideoBuffer.getPixel s.vb (x - 4) y else false) ∧
    t.events = s.events ++ [.frameReady t.vb] ∧ t.haltForRender = true ∧ OnlyVideo s t

/-- R123: 00FC moves every cell 4 columns left. -/
def Obligations.SclMovesTheBufferLeft : Prop :=
  ∀ s : State, ∃ t : State, exec .scl s = .next t ∧
    (∀ x y : Nat, x < 128 → y < 64 →
      VideoBuffer.getPixel t.vb x y = if x ≤ 123 then VideoBuffer.getPixel s.vb (x + 4) y else false) ∧
    t.events = s.events ++ [.frameReady t.vb] ∧ t.haltForRender = true ∧ OnlyVideo s t

/-- R124: 00Cn moves every cell n rows down; n = 0 keeps the buffer but still signals the frame. That n = 0 signals a
frame too is the spec's inference (assumption 30). -/
def Obligations.ScdMovesTheBufferDown : Prop :=
  ∀ (n : BitVec 4) (s : State), ∃ t : State, exec (.scd n) s = .next t ∧
    (∀ x y : Nat, x < 128 → y < 64 →
      VideoBuffer.getPixel t.vb x y =
        if n.toNat ≤ y then VideoBuffer.getPixel s.vb x (y - n.toNat) else false) ∧
    (n = 0#4 → t.vb = s.vb) ∧
    t.events = s.events ++ [.frameReady t.vb] ∧ t.haltForRender = true ∧ OnlyVideo s t

/-- R126 to R128: 00FE and 00FF write the mode and clear VB whatever the mode was, set the halt-for-render flag and
emit nothing. That they set the flag and emit nothing is the spec's own decision D12 (assumption 18). -/
def Obligations.ModeSwitchesClearWithoutAFrame : Prop :=
  ∀ s : State,
    (∃ t : State, exec .low s = .next t ∧ t.mode = .legacy ∧
      (∀ x y : Nat, VideoBuffer.getPixel t.vb x y = false) ∧ t.haltForRender = true ∧
      t = { s with mode := t.mode, vb := t.vb, haltForRender := t.haltForRender } ∧ KeepsRam s t) ∧
    (∃ t : State, exec .high s = .next t ∧ t.mode = .extended ∧
      (∀ x y : Nat, VideoBuffer.getPixel t.vb x y = false) ∧ t.haltForRender = true ∧
      t = { s with mode := t.mode, vb := t.vb, haltForRender := t.haltForRender } ∧ KeepsRam s t)

/-! ## Control flow -/

/-- The jumps write PC; SYS does nothing beyond the PC advance of the fetch, which has happened when `exec` runs
(40_system_display.md, 41_control_flow.md). For a term `sys nnn` with X = 0, which no word decodes to and which R129
says is no SYS, the first clause is the model's own choice (assumption 36). -/
def Obligations.JumpsSetPcAndSysDoesNothing : Prop :=
  ∀ (nnn : Address) (s : State),
    exec (.sys nnn) s = .next s ∧
    (∃ t : State, exec (.jp nnn) s = .next t ∧ t.pc = nnn ∧ OnlyPc s t) ∧
    (∃ t : State, exec (.jpV0 nnn) s = .next t ∧
      t.pc.toNat = (nnn.toNat + (s.reg 0).toNat) % 4096 ∧ OnlyPc s t)

/-- R151: the call, by the stack policy. Under `wrap` SP is below 16 in every state a run reaches (`State.Inv.ring`).
The two policies are the spec's own decision D7 (assumption 12). -/
def Obligations.CallPushesTheReturnAddress : Prop :=
  ∀ (nnn : Address) (s : State),
    (s.config.stackOob = .fault → ∀ h : s.sp.val < 16,
      ∃ t : State, exec (.call nnn) s = .next t ∧ t.pc = nnn ∧ t.sp.val = s.sp.val + 1 ∧
        (t.stack[s.sp.val]).toNat = s.pc.toNat ∧
        (∀ j : Fin 16, j.val ≠ s.sp.val → t.stack[j.val] = s.stack[j.val]) ∧
        t = { s with pc := t.pc, sp := t.sp, stack := t.stack } ∧ KeepsRegsBut s t [] ∧ KeepsRam s t) ∧
    (s.config.stackOob = .wrap → ∀ h : s.sp.val < 16,
      ∃ t : State, exec (.call nnn) s = .next t ∧ t.pc = nnn ∧ t.sp.val = (s.sp.val + 1) % 16 ∧
        (t.stack[s.sp.val]).toNat = s.pc.toNat ∧
        (∀ j : Fin 16, j.val ≠ s.sp.val → t.stack[j.val] = s.stack[j.val]) ∧
        t = { s with pc := t.pc, sp := t.sp, stack := t.stack } ∧ KeepsRegsBut s t [] ∧ KeepsRam s t) ∧
    (s.config.stackOob = .fault → s.sp.val = 16 →
      ∃ t : State, exec (.call nnn) s = .next t ∧ HaltedBy s t (.stackOverflow (s.pc - 2#12) 16))

/-- R152: the return, by the stack policy. The two policies are the spec's own decision D7 (assumption 12). -/
def Obligations.RetPopsTheReturnAddress : Prop :=
  ∀ s : State,
    (s.config.stackOob = .fault → ∀ h : 0 < s.sp.val,
      ∃ t : State, exec .ret s = .next t ∧ t.sp.val = s.sp.val - 1 ∧
        t.pc.toNat = (s.stack[s.sp.val - 1]'(by omega)).toNat % 4096 ∧
        t = { s with pc := t.pc, sp := t.sp } ∧ KeepsRegsBut s t [] ∧ KeepsRam s t) ∧
    (s.config.stackOob = .wrap → s.sp.val < 16 →
      ∃ t : State, exec .ret s = .next t ∧ t.sp.val = (s.sp.val + 15) % 16 ∧
        t.pc.toNat = (s.stack[(s.sp.val + 15) % 16]'(by omega)).toNat % 4096 ∧
        t = { s with pc := t.pc, sp := t.sp } ∧ KeepsRegsBut s t [] ∧ KeepsRam s t) ∧
    (s.config.stackOob = .fault → s.sp.val = 0 →
      ∃ t : State, exec .ret s = .next t ∧ HaltedBy s t (.stackUnderflow (s.pc - 2#12) 0))

/-- R154 to R157: the skips on registers add 2 to the advanced PC exactly when their condition holds, and 5xyN and
9xyN with N other than 0 are unknown words. -/
def Obligations.RegisterSkipsAddTwo : Prop :=
  ∀ (x y : Reg) (kk : Byte) (s : State),
    (∃ t : State, exec (.seImm x kk) s = .next t ∧ OnlyPc s t ∧
      t.pc.toNat = (s.pc.toNat + if s.reg x = kk then 2 else 0) % 4096) ∧
    (∃ t : State, exec (.sneImm x kk) s = .next t ∧ OnlyPc s t ∧
      t.pc.toNat = (s.pc.toNat + if s.reg x = kk then 0 else 2) % 4096) ∧
    (∃ t : State, exec (.seReg x y) s = .next t ∧ OnlyPc s t ∧
      t.pc.toNat = (s.pc.toNat + if s.reg x = s.reg y then 2 else 0) % 4096) ∧
    (∃ t : State, exec (.sneReg x y) s = .next t ∧ OnlyPc s t ∧
      t.pc.toNat = (s.pc.toNat + if s.reg x = s.reg y then 0 else 2) % 4096) ∧
    (∀ w : Opcode, w.toNat / 4096 = 5 ∨ w.toNat / 4096 = 9 → w.toNat % 16 ≠ 0 →
      decodeWord w = .error (.unknownOpcode w))

/-! ## Arithmetic and logic -/

/-- R180, R181: the immediate load and the immediate add, which sets no flag. That 7xkk writes no flag is the spec's
inference in R181. -/
def Obligations.ImmediateLoadAndAdd : Prop :=
  ∀ (x : Reg) (kk : Byte) (s : State),
    (∃ t : State, exec (.ldImm x kk) s = .next t ∧ t.reg x = kk ∧ KeepsRegsBut s t [x] ∧ OnlyRegs s t) ∧
    (∃ t : State, exec (.addImm x kk) s = .next t ∧
      (t.reg x).toNat = ((s.reg x).toNat + kk.toNat) % 256 ∧ KeepsRegsBut s t [x] ∧ OnlyRegs s t)

/-- R183 to R186: the copy and the logic operations, bit by bit; VF is written only as the destination. That the logic
operations leave VF alone is the spec's own decision D4 (assumption 10). -/
def Obligations.CopyAndLogicWriteOneRegister : Prop :=
  ∀ (x y : Reg) (s : State),
    (∃ t : State, exec (.ldReg x y) s = .next t ∧ t.reg x = s.reg y ∧ KeepsRegsBut s t [x] ∧ OnlyRegs s t) ∧
    (∃ t : State, exec (.orReg x y) s = .next t ∧
      (∀ k : Nat, (t.reg x).getLsbD k = ((s.reg x).getLsbD k || (s.reg y).getLsbD k)) ∧
      KeepsRegsBut s t [x] ∧ OnlyRegs s t) ∧
    (∃ t : State, exec (.andReg x y) s = .next t ∧
      (∀ k : Nat, (t.reg x).getLsbD k = ((s.reg x).getLsbD k && (s.reg y).getLsbD k)) ∧
      KeepsRegsBut s t [x] ∧ OnlyRegs s t) ∧
    (∃ t : State, exec (.xorReg x y) s = .next t ∧
      (∀ k : Nat, (t.reg x).getLsbD k = ((s.reg x).getLsbD k ^^ (s.reg y).getLsbD k)) ∧
      KeepsRegsBut s t [x] ∧ OnlyRegs s t)

/-- R187: 8xy4, with x = F ending as the flag. That VF ends as the flag for x = F is the spec's own decision D3
(assumption 9). -/
def Obligations.AddSetsTheCarry : Prop :=
  ∀ (x y : Reg) (s : State), ∃ t : State, exec (.addReg x y) s = .next t ∧
    (x ≠ 15 → (t.reg x).toNat = ((s.reg x).toNat + (s.reg y).toNat) % 256) ∧
    (t.reg 15).toNat = (if (s.reg x).toNat + (s.reg y).toNat > 255 then 1 else 0) ∧
    KeepsRegsBut s t [x, 15] ∧ OnlyRegs s t

/-- R188, R190: 8xy5 and 8xy7, with x = F ending as the flag. The spec's own decisions: D3 (the flag last, assumption
9) and D5 (the flag of 8xy7, assumption 10). -/
def Obligations.SubtractionsSetNoBorrow : Prop :=
  ∀ (x y : Reg) (s : State),
    (∃ t : State, exec (.subReg x y) s = .next t ∧
      (x ≠ 15 → (t.reg x).toNat = (256 + (s.reg x).toNat - (s.reg y).toNat) % 256) ∧
      (t.reg 15).toNat = (if (s.reg x).toNat ≥ (s.reg y).toNat then 1 else 0) ∧
      KeepsRegsBut s t [x, 15] ∧ OnlyRegs s t) ∧
    (∃ t : State, exec (.subnReg x y) s = .next t ∧
      (x ≠ 15 → (t.reg x).toNat = (256 + (s.reg y).toNat - (s.reg x).toNat) % 256) ∧
      (t.reg 15).toNat = (if (s.reg y).toNat ≥ (s.reg x).toNat then 1 else 0) ∧
      KeepsRegsBut s t [x, 15] ∧ OnlyRegs s t)

/-- R189, R191, R192: 8xy6 and 8xyE shift Vy exactly when AltShift is false and the mode is Legacy, else Vx; VF is the
bit shifted out. That VF ends as the flag for x = F is the spec's own decision D3 (assumption 9); that 8xyE moves out
bit 7 is the spec's inference in R191 (DEDUCED, assumption 30). -/
def Obligations.ShiftsTakeTheQuirkSource : Prop :=
  ∀ (x y : Reg) (s : State) (src : Nat),
    src = (if s.altShift = false ∧ s.mode = .legacy then (s.reg y).toNat else (s.reg x).toNat) →
    (∃ t : State, exec (.shrReg x y) s = .next t ∧
      (x ≠ 15 → (t.reg x).toNat = src / 2) ∧ (t.reg 15).toNat = src % 2 ∧
      KeepsRegsBut s t [x, 15] ∧ OnlyRegs s t) ∧
    (∃ t : State, exec (.shlReg x y) s = .next t ∧
      (x ≠ 15 → (t.reg x).toNat = 2 * src % 256) ∧ (t.reg 15).toNat = src / 128 ∧
      KeepsRegsBut s t [x, 15] ∧ OnlyRegs s t)

/-- R196: Cxkk writes a random byte AND kk, and every execution takes a fresh draw: the index of the free value moves
on. Nothing is said of the draw itself. The draw is a free value (assumption 5). -/
def Obligations.RandomByteIsMaskedAndFresh : Prop :=
  ∀ (x : Reg) (kk : Byte) (s : State), ∃ t : State, exec (.rnd x kk) s = .next t ∧
    (∀ k : Nat, (t.reg x).getLsbD k = ((Config.randomByte s.draws).getLsbD k && kk.getLsbD k)) ∧
    t.draws = s.draws + 1 ∧ KeepsRegsBut s t [x] ∧ KeepsRam s t ∧
    t = { s with v := t.v, draws := t.draws }

/-! ## Index register, loads and stores -/

/-- R220, R222: Annn loads I, and Fx1E adds to it modulo 4096; VF is unchanged. -/
def Obligations.IndexIsLoadedAndAdded : Prop :=
  ∀ (nnn : Address) (x : Reg) (s : State),
    (∃ t : State, exec (.ldIndex nnn) s = .next t ∧ t.i = nnn ∧ OnlyIndex s t) ∧
    (∃ t : State, exec (.addIndex x) s = .next t ∧
      t.i.toNat = (s.i.toNat + (s.reg x).toNat) % 4096 ∧ OnlyIndex s t)

/-- Fx29 and Fx30 point I at the glyph of the low nibble of Vx, in any mode. Where a glyph stands is the spec's own
decision D20, that Fx30 runs in both modes its decision D28 (43_index_memory.md; assumption 14). -/
def Obligations.GlyphAddressesAreComputed : Prop :=
  ∀ (x : Reg) (s : State),
    (∃ t : State, exec (.ldFont x) s = .next t ∧
      t.i.toNat = 5 * ((s.reg x).toNat % 16) ∧ OnlyIndex s t) ∧
    (∃ t : State, exec (.ldLargeFont x) s = .next t ∧
      t.i.toNat = 0x050 + 10 * ((s.reg x).toNat % 16) ∧ OnlyIndex s t)

/-- R225: Fx33 stores the decimal digits, hundreds first, where no address policy refuses them. The digit order and
the wrapping are the spec's own decisions D38 and D6 (assumptions 29 and 11). -/
def Obligations.BcdStoresThreeDigits : Prop :=
  ∀ (x : Reg) (s : State), Memory.wf s.config s.mem →
    s.config.addrOob = .wrap ∨ s.i.toNat + 2 < 4096 →
    ∃ t : State, exec (.storeBcd x) s = .next t ∧
      (t.readByte s.i.toNat).toNat = (s.reg x).toNat / 100 ∧
      (t.readByte (s.i.toNat + 1)).toNat = (s.reg x).toNat / 10 % 10 ∧
      (t.readByte (s.i.toNat + 2)).toNat = (s.reg x).toNat % 10 ∧
      KeepsRamBut s t s.i.toNat 3 ∧ OnlyRam s t

/-- R226, R227: Fx55 stores V0 to Vx from I on and post-increments I by X + 1 unless AltStoreLoad is set or the mode
is Extended. The wrapping is the spec's own decision D6 (assumption 11). -/
def Obligations.BlockStoreWritesTheRegisters : Prop :=
  ∀ (x : Reg) (s : State), Memory.wf s.config s.mem →
    s.config.addrOob = .wrap ∨ s.i.toNat + x.val < 4096 →
    ∃ t : State, exec (.storeRegs x) s = .next t ∧
      (∀ k : Reg, k ≤ x → t.readByte (s.i.toNat + k.val) = s.reg k) ∧
      KeepsRamBut s t s.i.toNat (x.val + 1) ∧
      t.i.toNat = (if s.altStoreLoad = true ∨ s.mode = .extended then s.i.toNat
        else (s.i.toNat + x.val + 1) % 4096) ∧
      KeepsRegsBut s t [] ∧ t = { s with mem := t.mem, i := t.i }

/-- R226, R228: Fx65 loads V0 to Vx from I on, with the same post-increment. The wrapping is the spec's own decision
D6 (assumption 11). -/
def Obligations.BlockLoadReadsTheRegisters : Prop :=
  ∀ (x : Reg) (s : State),
    s.config.addrOob = .wrap ∨ s.i.toNat + x.val < 4096 →
    ∃ t : State, exec (.loadRegs x) s = .next t ∧
      (∀ k : Reg, k ≤ x → t.reg k = s.readByte (s.i.toNat + k.val)) ∧
      (∀ k : Reg, x < k → t.reg k = s.reg k) ∧
      t.i.toNat = (if s.altStoreLoad = true ∨ s.mode = .extended then s.i.toNat
        else (s.i.toNat + x.val + 1) % 4096) ∧
      KeepsRam s t ∧ t = { s with v := t.v, i := t.i }

/-- R73, R305 and the halts of R225, R227, R228, R256: under `ADDR_OOB = fault` an instruction one of whose addresses
passes 0xFFF halts with the first of them, 0x1000, and writes nothing. The policy is the spec's own decision D6
(assumption 11). -/
def Obligations.AddressesPastRamHalt : Prop :=
  ∀ (x y : Reg) (n : BitVec 4) (s : State), s.config.addrOob = .fault →
    (4096 ≤ s.i.toNat + 2 →
      ∃ t : State, exec (.storeBcd x) s = .next t ∧ HaltedBy s t (.addrRange (s.pc - 2#12) 4096)) ∧
    (4096 ≤ s.i.toNat + x.val →
      ∃ t : State, exec (.storeRegs x) s = .next t ∧ HaltedBy s t (.addrRange (s.pc - 2#12) 4096)) ∧
    (4096 ≤ s.i.toNat + x.val →
      ∃ t : State, exec (.loadRegs x) s = .next t ∧ HaltedBy s t (.addrRange (s.pc - 2#12) 4096)) ∧
    (4096 < s.i.toNat + (if n = 0#4 then (if s.mode = .extended then 32 else 16) else n.toNat) →
      ∃ t : State, exec (.drw x y n) s = .next t ∧ HaltedBy s t (.addrRange (s.pc - 2#12) 4096))

/-- R229, R230: Fx75 and Fx85 move V0 to Vx, clamped to V0 to V7 under `HP48_OOB = clamp`. The policy is the spec's
own decision D8 (assumption 13). -/
def Obligations.FlagBytesAreSavedAndLoaded : Prop :=
  ∀ (x : Reg) (s : State), x.val < 8 ∨ s.config.hp48Oob = .clamp →
    (∃ t : State, exec (.saveFlags x) s = .next t ∧
      (∀ k : Fin 8, t.hp48[k.val] = if k.val ≤ x.val then s.v[k.val] else s.hp48[k.val]) ∧
      t = { s with hp48 := t.hp48 } ∧ KeepsRegsBut s t [] ∧ KeepsRam s t) ∧
    (∃ t : State, exec (.loadFlags x) s = .next t ∧
      (∀ k : Fin 8, t.v[k.val] = if k.val ≤ x.val then s.hp48[k.val] else s.v[k.val]) ∧
      (∀ k : Reg, 8 ≤ k.val → t.reg k = s.reg k) ∧ OnlyRegs s t)

/-- R229, R230: with X of 8 or more, `HP48_OOB = fault` halts both and nothing is written. The policy is the spec's
own decision D8 (assumption 13). -/
def Obligations.FlagBytesPastSevenHalt : Prop :=
  ∀ (x : Reg) (s : State), 8 ≤ x.val → s.config.hp48Oob = .fault →
    (∃ t : State, exec (.saveFlags x) s = .next t ∧ HaltedBy s t (.hp48Range (s.pc - 2#12) x.val)) ∧
    (∃ t : State, exec (.loadFlags x) s = .next t ∧ HaltedBy s t (.hp48Range (s.pc - 2#12) x.val))

/-! ## Draw -/

/-- R251 to R257: Dxyn flips exactly the cells its sprite covers, VF says whether any of them was 1, and the frame is
signalled. The spec's own decisions: D2 (coordinates read before VF is cleared, assumption 9), D26 and D29 (assumption
26), D6 (assumption 11). -/
def Obligations.DrawFlipsTheSpritesCells : Prop :=
  ∀ (x y : Reg) (n : BitVec 4) (s : State),
    s.config.addrOob = .wrap ∨
      s.i.toNat + (if n = 0#4 then (if s.mode = .extended then 32 else 16) else n.toNat) ≤ 4096 →
    ∃ t : State, exec (.drw x y n) s = .next t ∧
      (∀ cx cy : Nat, cx < 128 → cy < 64 →
        VideoBuffer.getPixel t.vb cx cy = (VideoBuffer.getPixel s.vb cx cy ^^ DrawHits s x y n cx cy)) ∧
      ((∃ cx cy : Nat, cx < 128 ∧ cy < 64 ∧ DrawHits s x y n cx cy = true ∧
        VideoBuffer.getPixel s.vb cx cy = true) → t.reg 15 = 1#8) ∧
      ((∀ cx cy : Nat, cx < 128 → cy < 64 → DrawHits s x y n cx cy = true →
        VideoBuffer.getPixel s.vb cx cy = false) → t.reg 15 = 0#8) ∧
      KeepsRegsBut s t [15] ∧ KeepsRam s t ∧
      t.events = s.events ++ [.frameReady t.vb] ∧ t.haltForRender = true ∧
      t = { s with v := t.v, vb := t.vb, events := t.events, haltForRender := t.haltForRender }

/-- R259: the same sprite drawn again at the same place restores the buffer, and VF is then 1 exactly when the first
draw left some cell at 1 that was 0. The second draw may name its coordinates in other registers. The spec's own
decisions: D2 (for x = F or y = F the place of the first draw is what VF held before it, assumption 9), D29 (VF counts
single cells, also in a Legacy block, assumption 26), D26 (the byte order of a wide row, assumption 26), D6 (the
wrapping, assumption 11). -/
def Obligations.DrawingTwiceRestoresTheBuffer : Prop :=
  ∀ (x y x' y' : Reg) (n : BitVec 4) (s t : State),
    s.config.addrOob = .wrap ∨
      s.i.toNat + (if n = 0#4 then (if s.mode = .extended then 32 else 16) else n.toNat) ≤ 4096 →
    exec (.drw x y n) s = .next t → t.reg x' = s.reg x → t.reg y' = s.reg y →
    ∃ u : State, exec (.drw x' y' n) t = .next u ∧ u.vb = s.vb ∧
      (u.reg 15 = 1#8 ↔ ∃ cx cy : Nat,
        VideoBuffer.getPixel s.vb cx cy = false ∧ VideoBuffer.getPixel t.vb cx cy = true)

/-! ## Keys and timers -/

/-- R270 to R272: the key skips; a key number of 16 or more is never down. That rests on the spec's own decision D9
(assumption 16). -/
def Obligations.KeySkipsReadTheKey : Prop :=
  ∀ (x : Reg) (s : State) (down : Bool),
    (down = true ↔ ∃ k : Fin 16, k.val = (s.reg x).toNat ∧ s.keyCur[k.val] = .down) →
    (∃ t : State, exec (.skp x) s = .next t ∧ OnlyPc s t ∧
      t.pc.toNat = (s.pc.toNat + if down then 2 else 0) % 4096) ∧
    (∃ t : State, exec (.sknp x) s = .next t ∧ OnlyPc s t ∧
      t.pc.toNat = (s.pc.toNat + if down then 0 else 2) % 4096)

/-- R273: in Legacy mode Fx0A takes the lowest Released key, in Extended mode the highest Down key; with none it goes
back to its own address and writes nothing else. The spec's own readings C1 and D13 (assumption 19). -/
def Obligations.WaitForKeyFindsOrRewinds : Prop :=
  ∀ (x : Reg) (s : State) (wanted : KeyState),
    wanted = (if s.mode = .legacy then .released else .down) →
    (∀ k : Fin 16, s.keyCur[k.val] = wanted →
      (s.mode = .legacy → ∀ j : Fin 16, j < k → s.keyCur[j.val] ≠ wanted) →
      (s.mode = .extended → ∀ j : Fin 16, k < j → s.keyCur[j.val] ≠ wanted) →
      ∃ t : State, exec (.waitKey x) s = .next t ∧ (t.reg x).toNat = k.val ∧
        KeepsRegsBut s t [x] ∧ OnlyRegs s t) ∧
    ((∀ k : Fin 16, s.keyCur[k.val] ≠ wanted) →
      ∃ t : State, exec (.waitKey x) s = .next t ∧ t.pc = s.pc - 2#12 ∧ OnlyPc s t)

/-- R274, R275: the delay timer is read and set. -/
def Obligations.DelayTimerIsReadAndSet : Prop :=
  ∀ (x : Reg) (s : State),
    (∃ t : State, exec (.ldFromDelay x) s = .next t ∧ t.reg x = s.dt ∧ KeepsRegsBut s t [x] ∧ OnlyRegs s t) ∧
    (∃ t : State, exec (.ldDelay x) s = .next t ∧ t.dt = s.reg x ∧
      t = { s with dt := t.dt } ∧ KeepsRegsBut s t [] ∧ KeepsRam s t)

/-- Fx18 sets ST and emits PlaySound for a value above 0. That it does so whatever ST was, and that 0 emits nothing,
are the spec's own decisions D32 and D14 (45_input_timers.md; assumption 22). -/
def Obligations.SoundTimerIsSetAndSignalled : Prop :=
  ∀ (x : Reg) (s : State), ∃ t : State, exec (.ldSound x) s = .next t ∧ t.st = s.reg x ∧
    t.events = s.events ++ (if s.reg x = 0#8 then [] else [.playSound]) ∧
    t = { s with st := t.st, events := t.events } ∧ KeepsRegsBut s t [] ∧ KeepsRam s t

/-- R321, R322: after k timer steps ST is lower by k, stopping at 0, and StopSound was emitted once if ST was above 0
and k steps took it to 0, and else not at all: no step that finds ST at 0 emits it. That only a step from 1 to 0 emits
it is the spec's own decision D14 (assumption 22). -/
def Obligations.SoundTimerStopsOnceAtZero : Prop :=
  ∀ (s : State) (k : Nat),
    (State.timerStep^[k] s).st.toNat = s.st.toNat - k ∧
    (State.timerStep^[k] s).events =
      s.events ++ (if 0 < s.st.toNat ∧ s.st.toNat ≤ k then [.stopSound] else [])

/-- R327 (a): a key seen Down and then set Up is Released after the next update, and Up after every later one. When
KeyPrev is written is the spec's own decision D11 (assumption 17). -/
def Obligations.KeyReleaseIsSeenOnce : Prop :=
  ∀ (s : State) (k : Fin 16), s.keyPrev[k.val] = .down → s.keyCur[k.val] = .up →
    s.inputUpdate.keyCur[k.val] = .released ∧
    ∀ m : Nat, (State.inputUpdate^[m + 2] s).keyCur[k.val] = .up

/-! ## Lifecycle and host commands -/

/-- R351, R353, R57: a Run accepted while Stopped leads in two steps to Running with every start-of-run value. The
zeros outside the fonts and the ROM, the clear buffer and the keys are the spec's own decision D17 (assumption 15);
the two steps are the model's (assumption 31). What the host will yet send, the parameters and the index of the free
values, fields of the model's own, are kept (assumptions 6, 2 and 5). -/
def Obligations.RunStartsFromTheResetTable : Prop :=
  ∀ (s : State) (rom : List Byte) (a b : Bool) (rest : List Command),
    s.lifecycle = .stopped → s.inTick = false → rom.length ≤ 3584 →
    s.commands = .run (some (.bytes rom)) (some a) (some b) :: rest →
    ∃ t u : State, step s = .next t ∧ t.lifecycle = .loadingROM ∧ step t = .next u ∧
      u.lifecycle = .running ∧ u.events = s.events ++ [.stateChanged .loadingROM, .stateChanged .running] ∧
      u.commands = rest ∧ u.arrivals = s.arrivals ∧ u.config = s.config ∧ u.draws = s.draws ∧
      u.loading = none ∧ u.halt = none ∧ u.altShift = a ∧ u.altStoreLoad = b ∧
      (∀ r : Reg, u.reg r = 0#8) ∧ u.i = 0#12 ∧ u.pc = 0x200#12 ∧ u.sp = 0 ∧
      (∀ k : Fin 16, u.stack[k.val] = 0#16) ∧ (∀ k : Fin 8, u.hp48[k.val] = 0#8) ∧
      u.dt = 0#8 ∧ u.st = 0#8 ∧ u.mode = .legacy ∧
      (∀ x y : Nat, VideoBuffer.getPixel u.vb x y = false) ∧
      (∀ k : Fin 16, u.keyCur[k.val] = .up ∧ u.keyPrev[k.val] = .up) ∧
      u.haltForRender = false ∧ u.stopReq = false ∧ u.stepCount = 0 ∧ u.inTick = false ∧
      (∀ k : Fin 80, u.readByte k.val = s.config.smallFont[k.val]) ∧
      (∀ k : Fin 160, u.readByte (0x050 + k.val) = Config.fontLarge k) ∧
      (∀ k : Nat, (h : k < rom.length) → u.readByte (0x200 + k) = rom[k]) ∧
      (∀ k : Nat, 0x0F0 ≤ k → k < 4096 → k < 0x200 ∨ 0x200 + rom.length ≤ k → u.readByte k = 0#8)

/-- R352: a ROM that is too long or cannot be obtained is a load failure. The spec's own decisions D22 and D33
(assumptions 21 and 20); the two steps are the model's (assumption 31), and so is that the other fields keep what they
held while Stopped (assumption 8). -/
def Obligations.BadRomIsALoadFailure : Prop :=
  ∀ (s : State) (rom : Rom) (a b : Bool) (rest : List Command),
    s.lifecycle = .stopped → s.inTick = false →
    (rom = .unobtainable ∨ ∃ content, rom = .bytes content ∧ 3584 < content.length) →
    s.commands = .run (some rom) (some a) (some b) :: rest →
    ∃ t u : State, step s = .next t ∧ t.lifecycle = .loadingROM ∧ step t = .next u ∧
      u.events = s.events ++ [.stateChanged .loadingROM, .loadError, .stateChanged .stopped] ∧
      u = { s with commands := rest, events := u.events, loading := none }

/-- R335, R357: Stop while Running, between ticks, performs the stop sequence before any tick. That no StopSound is
emitted is the spec's own decision D31 (assumption 22). That the other fields stay is the snapshot (D35, assumption
8), since R357 destroys the CPU, memory and input state; that a step applies one command is the model's (assumption
24). -/
def Obligations.StopCommandStopsTheRun : Prop :=
  ∀ (s : State) (rest : List Command),
    s.lifecycle = .running → s.inTick = false → s.commands = .stop :: rest →
    ∃ t : State, step s = .next t ∧ t.lifecycle = .stopped ∧ t.inTick = false ∧
      (∀ x y : Nat, VideoBuffer.getPixel t.vb x y = false) ∧
      t.events = s.events ++ [.frameReady t.vb, .stateChanged .stopped] ∧
      t = { s with vb := t.vb, events := t.events, lifecycle := .stopped, commands := rest }

/-- R332, R333: SendInput writes the current state of its key and nothing else; SetSettings writes both settings and
nothing else. That a step applies one command is the model's (assumption 24). -/
def Obligations.InputAndSettingsAreApplied : Prop :=
  ∀ (s : State) (rest : List Command), s.lifecycle = .running → s.inTick = false →
    (∀ (k : Fin 16) (x : KeyState), s.commands = .sendInput (some k.val) (some x) :: rest →
      ∃ t : State, step s = .next t ∧ t.keyCur[k.val] = x ∧
        (∀ j : Fin 16, j ≠ k → t.keyCur[j.val] = s.keyCur[j.val]) ∧
        t = { s with keyCur := t.keyCur, commands := rest }) ∧
    (∀ a b : Bool, s.commands = .setSettings (some a) (some b) :: rest →
      ∃ t : State, step s = .next t ∧ t.altShift = a ∧ t.altStoreLoad = b ∧
        t = { s with altShift := t.altShift, altStoreLoad := t.altStoreLoad, commands := rest })

/-- R358's last row, R332, R336: a command that is not accepted where it arrives, or that is malformed, changes
nothing and signals nothing. That a key outside 0 to 15 is ignored is the spec's own decision D34 (assumption 24); what
the fields hold while no run exists is the model's (assumption 8). -/
def Obligations.UnacceptedCommandsChangeNothing : Prop :=
  ∀ (s : State) (c : Command),
    (match c with
      | .run rom a b => s.lifecycle ≠ .stopped ∨ rom = none ∨ a = none ∨ b = none
      | .stop => s.lifecycle ≠ .running
      | .setSettings a b => s.lifecycle ≠ .running ∨ a = none ∨ b = none
      | .sendInput k x => s.lifecycle ≠ .running ∨ x = none ∨ k = none ∨ ∃ j, k = some j ∧ 16 ≤ j) →
    s.applyCommand c = s

/-- R364, R361, R330: between ticks the pending commands come first, one a step, oldest first; with none pending the next
tick begins with the flag and the count cleared, and the next batch of what the host sends enters the channel whole and
in its order. That commands wait for the end of a tick is the spec's own decision D24, that a step applies one of them
the model's (assumption 24), and so are the list of batches (assumption 6) and that the start of a tick is a step of its
own (assumption 34). -/
def Obligations.CommandsComeBeforeTheNextTick : Prop :=
  ∀ s : State, s.lifecycle = .running → s.inTick = false →
    (∀ (c : Command) (rest : List Command), s.commands = c :: rest →
      step s = .next (State.applyCommand { s with commands := rest } c)) ∧
    (s.commands = [] → ∃ t : State, step s = .next t ∧
      t.inTick = true ∧ t.haltForRender = false ∧ t.stepCount = 0 ∧
      (s.arrivals = [] → t.commands = [] ∧ t.arrivals = []) ∧
      (∀ (batch : List Command) (rest : List (List Command)), s.arrivals = batch :: rest →
        t.commands = batch ∧ t.arrivals = rest) ∧
      t = { s with inTick := true, haltForRender := false, stepCount := 0,
                   commands := t.commands, arrivals := t.arrivals })

/-- R350, R330: while Stopped the pending commands are applied one a step, oldest first; with none pending the next
batch of what the host sends enters the channel whole and in its order; with none to come either, the machine waits and
nothing changes. One command a step and the list of batches are the model's (assumptions 24 and 6), and so is what the
fields hold while no run exists (assumption 8). -/
def Obligations.StoppedMachineWaits : Prop :=
  ∀ s : State, s.lifecycle = .stopped → s.inTick = false →
    (∀ (c : Command) (rest : List Command), s.commands = c :: rest →
      step s = .next (State.applyCommand { s with commands := rest } c)) ∧
    (∀ (batch : List Command) (rest : List (List Command)), s.commands = [] → s.arrivals = batch :: rest →
      step s = .next { s with commands := batch, arrivals := rest }) ∧
    (s.commands = [] → s.arrivals = [] → step s = .next s)

/-- R353, R303: nothing of an earlier run survives into the next: two stopped machines that agree on the channels, the
parameters and the free-value index, and on nothing else, are the same machine once their Run is served. The two steps
are the model's (assumption 31). -/
def Obligations.NothingSurvivesIntoTheNextRun : Prop :=
  ∀ (s s' t t' u u' : State) (rom : List Byte) (a b : Bool) (rest : List Command),
    s.lifecycle = .stopped → s'.lifecycle = .stopped → s.inTick = false → s'.inTick = false →
    rom.length ≤ 3584 →
    s.commands = .run (some (.bytes rom)) (some a) (some b) :: rest → s'.commands = s.commands →
    s'.events = s.events → s'.arrivals = s.arrivals → s'.draws = s.draws → s'.config = s.config →
    step s = .next t → step t = .next u → step s' = .next t' → step t' = .next u' →
    u = u'

/-! ## Whole-machine rules -/

/-- The reset state: power-on, Lifecycle Stopped, nothing sent in either direction, and in every other field the
start-of-run value of R57. That reset holds the values of R57 before any run is the model's, and so are the settings'
values, which R57 takes from a Run command (assumption 1); the zeros of RAM, the clear buffer, the keys and the flags
are the spec's own decision D17 (assumption 15). The model's own: the policies at the spec's defaults with the
conventional font (assumptions 2 and 3), `inTick`, `loading`, `arrivals` and `draws` (assumptions 32, 31, 6 and 5). The
large font is whatever the free value gives (assumption 4). -/
def Obligations.ResetIsPowerOn : Prop :=
  State.reset.lifecycle = .stopped ∧ State.reset.inTick = false ∧ State.reset.loading = none ∧
  State.reset.events = [] ∧ State.reset.commands = [] ∧ State.reset.arrivals = [] ∧
  State.reset.pc = 0x200#12 ∧ State.reset.i = 0#12 ∧ State.reset.sp = 0 ∧
  (∀ k : Fin 16, State.reset.stack[k.val] = 0#16) ∧ (∀ k : Fin 8, State.reset.hp48[k.val] = 0#8) ∧
  (∀ r : Reg, State.reset.reg r = 0#8) ∧ State.reset.dt = 0#8 ∧ State.reset.st = 0#8 ∧
  State.reset.mode = .legacy ∧ State.reset.altShift = false ∧ State.reset.altStoreLoad = false ∧
  (∀ x y : Nat, VideoBuffer.getPixel State.reset.vb x y = false) ∧
  (∀ k : Fin 16, State.reset.keyCur[k.val] = .up ∧ State.reset.keyPrev[k.val] = .up) ∧
  State.reset.haltForRender = false ∧ State.reset.stopReq = false ∧ State.reset.halt = none ∧
  State.reset.stepCount = 0 ∧ State.reset.draws = 0 ∧
  State.reset.config.addrOob = .wrap ∧ State.reset.config.stackOob = .fault ∧
  State.reset.config.hp48Oob = .fault ∧
  (∀ k : Fin 80, State.reset.readByte k.val = Config.conventionalFont[k.val]) ∧
  (∀ k : Fin 160, State.reset.readByte (0x050 + k.val) = Config.fontLarge k) ∧
  (∀ k : Nat, 0x0F0 ≤ k → k < 4096 → State.reset.readByte k = 0#8)

/-- The reset state meets the invariant, whose clauses on the form of RAM and on the model's own fields are the model's
(assumptions 33, 32 and 31). -/
def Obligations.ResetMeetsTheInvariant : Prop := State.reset.Inv

/-- From every state that meets the invariant a step answers a next state that meets it: no step of a run stops
with a fault or a refusal. The clauses of the invariant on the form of RAM and on the model's own fields are the model's
(assumptions 33, 32 and 31). -/
def Obligations.EveryStepKeepsTheInvariant : Prop :=
  ∀ s : State, s.Inv → ∃ t : State, step s = .next t ∧ t.Inv

/-- R361, R363: a tick ends after at most as many steps as its 1024 still has. What one step is, is the model's
(assumption 34). -/
def Obligations.EveryTickEnds : Prop :=
  ∀ s : State, s.Inv → s.inTick = true →
    ∃ (k : Nat) (t : State), k ≤ 1024 - s.stepCount ∧ 0 < k ∧ core.run k s = .next t ∧ t.inTick = false

/-- R101: executing an instruction always answers a next state, in every state and for every operand. For a term
`sys nnn` with X = 0, which is no instruction, that is the model's (assumption 36). -/
def Obligations.EveryInstructionCompletes : Prop :=
  ∀ (i : Instr) (s : State), ∃ t : State, exec i s = .next t

/-- The writers of each piece of state: R31 to R33 (V0 to VF), R36 (PC), R37, R38, R40, R41, R42, R46, R47, R48 (the
halt-for-render flag), R49, R300 and R301 (the halt and the stop request), R50, R51, R52, R72, R328 and R329 (the events),
over all instructions. A field that no clause names a writer for is written by none. The spec's own decisions: D4 (the
logic operations are no writers of VF, assumption 10), D6 to D8 (which instructions halt, assumptions 11 to 13), D12
(00FE and 00FF emit no frame, assumption 18), D14 (Fx18 with 0 emits nothing, assumption 22); that the index of the free
values moves with Cxkk alone is the model's (assumption 5). -/
def Obligations.OnlyTheNamedInstructionsWrite : Prop :=
  ∀ (i : Instr) (s t : State), exec i s = .next t →
    (∀ r : Reg, t.reg r ≠ s.reg r → WritesReg i r) ∧
    (t.pc ≠ s.pc → WritesPc i) ∧
    (t.i ≠ s.i → (∃ nnn, i = .ldIndex nnn) ∨ (∃ x, i = .addIndex x ∨ i = .ldFont x ∨ i = .ldLargeFont x ∨
      i = .storeRegs x ∨ i = .loadRegs x)) ∧
    (t.sp ≠ s.sp ∨ t.stack ≠ s.stack → i = .ret ∨ ∃ nnn, i = .call nnn) ∧
    (t.stack ≠ s.stack → ∃ nnn, i = .call nnn) ∧
    (t.hp48 ≠ s.hp48 → ∃ x, i = .saveFlags x) ∧
    (t.dt ≠ s.dt → ∃ x, i = .ldDelay x) ∧
    (t.st ≠ s.st → ∃ x, i = .ldSound x) ∧
    (t.mode ≠ s.mode → i = .low ∨ i = .high) ∧
    (t.mem ≠ s.mem → ∃ x, i = .storeBcd x ∨ i = .storeRegs x) ∧
    (t.vb ≠ s.vb → i = .cls ∨ i = .scr ∨ i = .scl ∨ (∃ n, i = .scd n) ∨ i = .low ∨ i = .high ∨
      ∃ x y n, i = .drw x y n) ∧
    (t.haltForRender ≠ s.haltForRender → t.haltForRender = true ∧
      (i = .cls ∨ i = .scr ∨ i = .scl ∨ (∃ n, i = .scd n) ∨ i = .low ∨ i = .high ∨ ∃ x y n, i = .drw x y n)) ∧
    (t.events = s.events ∨
      t.events = s.events ++ [.frameReady t.vb] ∧
        (i = .cls ∨ i = .scr ∨ i = .scl ∨ (∃ n, i = .scd n) ∨ ∃ x y n, i = .drw x y n) ∨
      t.events = s.events ++ [.playSound] ∧ ∃ x, i = .ldSound x ∧ s.reg x ≠ 0#8) ∧
    (t.stopReq ≠ s.stopReq ∨ t.halt ≠ s.halt →
      t.stopReq = true ∧ ∃ h : Halt, t.halt = some h ∧ CauseOf i s h) ∧
    (t.draws ≠ s.draws → ∃ x kk, i = .rnd x kk) ∧
    t.altShift = s.altShift ∧ t.altStoreLoad = s.altStoreLoad ∧
    t.keyCur = s.keyCur ∧ t.keyPrev = s.keyPrev ∧
    t.lifecycle = s.lifecycle ∧ t.inTick = s.inTick ∧ t.stepCount = s.stepCount ∧ t.loading = s.loading ∧
    t.commands = s.commands ∧ t.arrivals = s.arrivals ∧ t.config = s.config

/-- R305: a halting instruction writes nothing but the record of the halt and the stop request. It rests on the spec's
own decisions D6, D7 and D8 (assumptions 11, 12, 13). -/
def Obligations.HaltsWriteNothingElse : Prop :=
  ∀ (i : Instr) (s t : State), exec i s = .next t → s.stopReq = false → t.stopReq = true →
    ∃ h : Halt, HaltedBy s t h

/-- R48, R362, R363: the instructions that set the halt-for-render flag are the seven that mutate VB, and after any of
them that did not halt the tick ends. That 00FE and 00FF are among them is the spec's own decision D12 (assumption
18); that the end of the tick belongs to the instruction's step is the model's (assumption 34). -/
def Obligations.VideoInstructionsEndTheTick : Prop :=
  ∀ (i : Instr) (s t : State), exec i s = .next t → s.stopReq = false → t.stopReq = false →
    (t.haltForRender = true ↔ s.haltForRender = true ∨
      i = .cls ∨ i = .scr ∨ i = .scl ∨ (∃ n, i = .scd n) ∨ i = .low ∨ i = .high ∨ ∃ x y n, i = .drw x y n) ∧
    (t.haltForRender = true → t.afterInstr.inTick = false)

/-- RAM is determined by its bytes: two canonical memories that read the same at every address are equal, and a write
reads back at its address alone and keeps the form. The form is the model's (assumption 33). -/
def Obligations.CanonicalMemoryIsItsBytes : Prop :=
  ∀ (c : Config) (m m' : Memory), Memory.wf c m → Memory.wf c m' →
    ((∀ a : Nat, Memory.read c m a = Memory.read c m' a) → m = m') ∧
    (∀ (a : Nat) (x : Byte), a < 4096 → Memory.wf c (Memory.write c m a x) ∧
      Memory.read c (Memory.write c m a x) a = x ∧
      ∀ b : Nat, b ≠ a → Memory.read c (Memory.write c m a x) b = Memory.read c m b)

/-- R85: bytes that Fx55 stores at PC are the word the next fetch reads. The spec marks R85 as its inference. -/
def Obligations.StoresAreSeenByTheNextFetch : Prop :=
  ∀ (x k : Reg) (s t : State), Memory.wf s.config s.mem →
    exec (.storeRegs x) s = .next t → t.stopReq = false → s.stopReq = false →
    k < x → s.pc.toNat = s.i.toNat + k.val → s.pc.toNat + 1 < 4096 →
    t.fetchWord = .ok (s.reg k ++ s.reg (k + 1))
end

