-- ==== Sys2Proof/Laws/State.lean ====
section
/-! SUPPORT. What each update of the state does to each field: one lemma per field per update, true by rfl. -/

namespace Sys2Proof.Machine

variable (s : State)

/-! ## setReg -/

@[simp] theorem State.setReg_v (r : Reg) (x : Byte) : (s.setReg r x).v = s.v.set r.val x := rfl
@[simp] theorem State.setReg_i (r : Reg) (x : Byte) : (s.setReg r x).i = s.i := rfl
@[simp] theorem State.setReg_pc (r : Reg) (x : Byte) : (s.setReg r x).pc = s.pc := rfl
@[simp] theorem State.setReg_sp (r : Reg) (x : Byte) : (s.setReg r x).sp = s.sp := rfl
@[simp] theorem State.setReg_stack (r : Reg) (x : Byte) : (s.setReg r x).stack = s.stack := rfl
@[simp] theorem State.setReg_hp48 (r : Reg) (x : Byte) : (s.setReg r x).hp48 = s.hp48 := rfl
@[simp] theorem State.setReg_dt (r : Reg) (x : Byte) : (s.setReg r x).dt = s.dt := rfl
@[simp] theorem State.setReg_st (r : Reg) (x : Byte) : (s.setReg r x).st = s.st := rfl
@[simp] theorem State.setReg_mode (r : Reg) (x : Byte) : (s.setReg r x).mode = s.mode := rfl
@[simp] theorem State.setReg_altShift (r : Reg) (x : Byte) : (s.setReg r x).altShift = s.altShift := rfl
@[simp] theorem State.setReg_altStoreLoad (r : Reg) (x : Byte) : (s.setReg r x).altStoreLoad = s.altStoreLoad := rfl
@[simp] theorem State.setReg_mem (r : Reg) (x : Byte) : (s.setReg r x).mem = s.mem := rfl
@[simp] theorem State.setReg_vb (r : Reg) (x : Byte) : (s.setReg r x).vb = s.vb := rfl
@[simp] theorem State.setReg_keyCur (r : Reg) (x : Byte) : (s.setReg r x).keyCur = s.keyCur := rfl
@[simp] theorem State.setReg_keyPrev (r : Reg) (x : Byte) : (s.setReg r x).keyPrev = s.keyPrev := rfl
@[simp] theorem State.setReg_haltForRender (r : Reg) (x : Byte) : (s.setReg r x).haltForRender = s.haltForRender := rfl
@[simp] theorem State.setReg_stopReq (r : Reg) (x : Byte) : (s.setReg r x).stopReq = s.stopReq := rfl
@[simp] theorem State.setReg_halt (r : Reg) (x : Byte) : (s.setReg r x).halt = s.halt := rfl
@[simp] theorem State.setReg_inTick (r : Reg) (x : Byte) : (s.setReg r x).inTick = s.inTick := rfl
@[simp] theorem State.setReg_stepCount (r : Reg) (x : Byte) : (s.setReg r x).stepCount = s.stepCount := rfl
@[simp] theorem State.setReg_lifecycle (r : Reg) (x : Byte) : (s.setReg r x).lifecycle = s.lifecycle := rfl
@[simp] theorem State.setReg_loading (r : Reg) (x : Byte) : (s.setReg r x).loading = s.loading := rfl
@[simp] theorem State.setReg_events (r : Reg) (x : Byte) : (s.setReg r x).events = s.events := rfl
@[simp] theorem State.setReg_commands (r : Reg) (x : Byte) : (s.setReg r x).commands = s.commands := rfl
@[simp] theorem State.setReg_arrivals (r : Reg) (x : Byte) : (s.setReg r x).arrivals = s.arrivals := rfl
@[simp] theorem State.setReg_draws (r : Reg) (x : Byte) : (s.setReg r x).draws = s.draws := rfl
@[simp] theorem State.setReg_config (r : Reg) (x : Byte) : (s.setReg r x).config = s.config := rfl

/-! ## setPc -/

@[simp] theorem State.setPc_v (a : Address) : (s.setPc a).v = s.v := rfl
@[simp] theorem State.setPc_i (a : Address) : (s.setPc a).i = s.i := rfl
@[simp] theorem State.setPc_pc (a : Address) : (s.setPc a).pc = a := rfl
@[simp] theorem State.setPc_sp (a : Address) : (s.setPc a).sp = s.sp := rfl
@[simp] theorem State.setPc_stack (a : Address) : (s.setPc a).stack = s.stack := rfl
@[simp] theorem State.setPc_hp48 (a : Address) : (s.setPc a).hp48 = s.hp48 := rfl
@[simp] theorem State.setPc_dt (a : Address) : (s.setPc a).dt = s.dt := rfl
@[simp] theorem State.setPc_st (a : Address) : (s.setPc a).st = s.st := rfl
@[simp] theorem State.setPc_mode (a : Address) : (s.setPc a).mode = s.mode := rfl
@[simp] theorem State.setPc_altShift (a : Address) : (s.setPc a).altShift = s.altShift := rfl
@[simp] theorem State.setPc_altStoreLoad (a : Address) : (s.setPc a).altStoreLoad = s.altStoreLoad := rfl
@[simp] theorem State.setPc_mem (a : Address) : (s.setPc a).mem = s.mem := rfl
@[simp] theorem State.setPc_vb (a : Address) : (s.setPc a).vb = s.vb := rfl
@[simp] theorem State.setPc_keyCur (a : Address) : (s.setPc a).keyCur = s.keyCur := rfl
@[simp] theorem State.setPc_keyPrev (a : Address) : (s.setPc a).keyPrev = s.keyPrev := rfl
@[simp] theorem State.setPc_haltForRender (a : Address) : (s.setPc a).haltForRender = s.haltForRender := rfl
@[simp] theorem State.setPc_stopReq (a : Address) : (s.setPc a).stopReq = s.stopReq := rfl
@[simp] theorem State.setPc_halt (a : Address) : (s.setPc a).halt = s.halt := rfl
@[simp] theorem State.setPc_inTick (a : Address) : (s.setPc a).inTick = s.inTick := rfl
@[simp] theorem State.setPc_stepCount (a : Address) : (s.setPc a).stepCount = s.stepCount := rfl
@[simp] theorem State.setPc_lifecycle (a : Address) : (s.setPc a).lifecycle = s.lifecycle := rfl
@[simp] theorem State.setPc_loading (a : Address) : (s.setPc a).loading = s.loading := rfl
@[simp] theorem State.setPc_events (a : Address) : (s.setPc a).events = s.events := rfl
@[simp] theorem State.setPc_commands (a : Address) : (s.setPc a).commands = s.commands := rfl
@[simp] theorem State.setPc_arrivals (a : Address) : (s.setPc a).arrivals = s.arrivals := rfl
@[simp] theorem State.setPc_draws (a : Address) : (s.setPc a).draws = s.draws := rfl
@[simp] theorem State.setPc_config (a : Address) : (s.setPc a).config = s.config := rfl

/-! ## setIndex -/

@[simp] theorem State.setIndex_v (a : Address) : (s.setIndex a).v = s.v := rfl
@[simp] theorem State.setIndex_i (a : Address) : (s.setIndex a).i = a := rfl
@[simp] theorem State.setIndex_pc (a : Address) : (s.setIndex a).pc = s.pc := rfl
@[simp] theorem State.setIndex_sp (a : Address) : (s.setIndex a).sp = s.sp := rfl
@[simp] theorem State.setIndex_stack (a : Address) : (s.setIndex a).stack = s.stack := rfl
@[simp] theorem State.setIndex_hp48 (a : Address) : (s.setIndex a).hp48 = s.hp48 := rfl
@[simp] theorem State.setIndex_dt (a : Address) : (s.setIndex a).dt = s.dt := rfl
@[simp] theorem State.setIndex_st (a : Address) : (s.setIndex a).st = s.st := rfl
@[simp] theorem State.setIndex_mode (a : Address) : (s.setIndex a).mode = s.mode := rfl
@[simp] theorem State.setIndex_altShift (a : Address) : (s.setIndex a).altShift = s.altShift := rfl
@[simp] theorem State.setIndex_altStoreLoad (a : Address) : (s.setIndex a).altStoreLoad = s.altStoreLoad := rfl
@[simp] theorem State.setIndex_mem (a : Address) : (s.setIndex a).mem = s.mem := rfl
@[simp] theorem State.setIndex_vb (a : Address) : (s.setIndex a).vb = s.vb := rfl
@[simp] theorem State.setIndex_keyCur (a : Address) : (s.setIndex a).keyCur = s.keyCur := rfl
@[simp] theorem State.setIndex_keyPrev (a : Address) : (s.setIndex a).keyPrev = s.keyPrev := rfl
@[simp] theorem State.setIndex_haltForRender (a : Address) : (s.setIndex a).haltForRender = s.haltForRender := rfl
@[simp] theorem State.setIndex_stopReq (a : Address) : (s.setIndex a).stopReq = s.stopReq := rfl
@[simp] theorem State.setIndex_halt (a : Address) : (s.setIndex a).halt = s.halt := rfl
@[simp] theorem State.setIndex_inTick (a : Address) : (s.setIndex a).inTick = s.inTick := rfl
@[simp] theorem State.setIndex_stepCount (a : Address) : (s.setIndex a).stepCount = s.stepCount := rfl
@[simp] theorem State.setIndex_lifecycle (a : Address) : (s.setIndex a).lifecycle = s.lifecycle := rfl
@[simp] theorem State.setIndex_loading (a : Address) : (s.setIndex a).loading = s.loading := rfl
@[simp] theorem State.setIndex_events (a : Address) : (s.setIndex a).events = s.events := rfl
@[simp] theorem State.setIndex_commands (a : Address) : (s.setIndex a).commands = s.commands := rfl
@[simp] theorem State.setIndex_arrivals (a : Address) : (s.setIndex a).arrivals = s.arrivals := rfl
@[simp] theorem State.setIndex_draws (a : Address) : (s.setIndex a).draws = s.draws := rfl
@[simp] theorem State.setIndex_config (a : Address) : (s.setIndex a).config = s.config := rfl

/-! ## writeByte -/

@[simp] theorem State.writeByte_v (a : Nat) (x : Byte) : (s.writeByte a x).v = s.v := rfl
@[simp] theorem State.writeByte_i (a : Nat) (x : Byte) : (s.writeByte a x).i = s.i := rfl
@[simp] theorem State.writeByte_pc (a : Nat) (x : Byte) : (s.writeByte a x).pc = s.pc := rfl
@[simp] theorem State.writeByte_sp (a : Nat) (x : Byte) : (s.writeByte a x).sp = s.sp := rfl
@[simp] theorem State.writeByte_stack (a : Nat) (x : Byte) : (s.writeByte a x).stack = s.stack := rfl
@[simp] theorem State.writeByte_hp48 (a : Nat) (x : Byte) : (s.writeByte a x).hp48 = s.hp48 := rfl
@[simp] theorem State.writeByte_dt (a : Nat) (x : Byte) : (s.writeByte a x).dt = s.dt := rfl
@[simp] theorem State.writeByte_st (a : Nat) (x : Byte) : (s.writeByte a x).st = s.st := rfl
@[simp] theorem State.writeByte_mode (a : Nat) (x : Byte) : (s.writeByte a x).mode = s.mode := rfl
@[simp] theorem State.writeByte_altShift (a : Nat) (x : Byte) : (s.writeByte a x).altShift = s.altShift := rfl
@[simp] theorem State.writeByte_altStoreLoad (a : Nat) (x : Byte) : (s.writeByte a x).altStoreLoad = s.altStoreLoad := rfl
@[simp] theorem State.writeByte_mem (a : Nat) (x : Byte) : (s.writeByte a x).mem = Memory.write s.config s.mem (wrapAddr a) x := rfl
@[simp] theorem State.writeByte_vb (a : Nat) (x : Byte) : (s.writeByte a x).vb = s.vb := rfl
@[simp] theorem State.writeByte_keyCur (a : Nat) (x : Byte) : (s.writeByte a x).keyCur = s.keyCur := rfl
@[simp] theorem State.writeByte_keyPrev (a : Nat) (x : Byte) : (s.writeByte a x).keyPrev = s.keyPrev := rfl
@[simp] theorem State.writeByte_haltForRender (a : Nat) (x : Byte) : (s.writeByte a x).haltForRender = s.haltForRender := rfl
@[simp] theorem State.writeByte_stopReq (a : Nat) (x : Byte) : (s.writeByte a x).stopReq = s.stopReq := rfl
@[simp] theorem State.writeByte_halt (a : Nat) (x : Byte) : (s.writeByte a x).halt = s.halt := rfl
@[simp] theorem State.writeByte_inTick (a : Nat) (x : Byte) : (s.writeByte a x).inTick = s.inTick := rfl
@[simp] theorem State.writeByte_stepCount (a : Nat) (x : Byte) : (s.writeByte a x).stepCount = s.stepCount := rfl
@[simp] theorem State.writeByte_lifecycle (a : Nat) (x : Byte) : (s.writeByte a x).lifecycle = s.lifecycle := rfl
@[simp] theorem State.writeByte_loading (a : Nat) (x : Byte) : (s.writeByte a x).loading = s.loading := rfl
@[simp] theorem State.writeByte_events (a : Nat) (x : Byte) : (s.writeByte a x).events = s.events := rfl
@[simp] theorem State.writeByte_commands (a : Nat) (x : Byte) : (s.writeByte a x).commands = s.commands := rfl
@[simp] theorem State.writeByte_arrivals (a : Nat) (x : Byte) : (s.writeByte a x).arrivals = s.arrivals := rfl
@[simp] theorem State.writeByte_draws (a : Nat) (x : Byte) : (s.writeByte a x).draws = s.draws := rfl
@[simp] theorem State.writeByte_config (a : Nat) (x : Byte) : (s.writeByte a x).config = s.config := rfl

/-! ## emit -/

@[simp] theorem State.emit_v (e : Event) : (s.emit e).v = s.v := rfl
@[simp] theorem State.emit_i (e : Event) : (s.emit e).i = s.i := rfl
@[simp] theorem State.emit_pc (e : Event) : (s.emit e).pc = s.pc := rfl
@[simp] theorem State.emit_sp (e : Event) : (s.emit e).sp = s.sp := rfl
@[simp] theorem State.emit_stack (e : Event) : (s.emit e).stack = s.stack := rfl
@[simp] theorem State.emit_hp48 (e : Event) : (s.emit e).hp48 = s.hp48 := rfl
@[simp] theorem State.emit_dt (e : Event) : (s.emit e).dt = s.dt := rfl
@[simp] theorem State.emit_st (e : Event) : (s.emit e).st = s.st := rfl
@[simp] theorem State.emit_mode (e : Event) : (s.emit e).mode = s.mode := rfl
@[simp] theorem State.emit_altShift (e : Event) : (s.emit e).altShift = s.altShift := rfl
@[simp] theorem State.emit_altStoreLoad (e : Event) : (s.emit e).altStoreLoad = s.altStoreLoad := rfl
@[simp] theorem State.emit_mem (e : Event) : (s.emit e).mem = s.mem := rfl
@[simp] theorem State.emit_vb (e : Event) : (s.emit e).vb = s.vb := rfl
@[simp] theorem State.emit_keyCur (e : Event) : (s.emit e).keyCur = s.keyCur := rfl
@[simp] theorem State.emit_keyPrev (e : Event) : (s.emit e).keyPrev = s.keyPrev := rfl
@[simp] theorem State.emit_haltForRender (e : Event) : (s.emit e).haltForRender = s.haltForRender := rfl
@[simp] theorem State.emit_stopReq (e : Event) : (s.emit e).stopReq = s.stopReq := rfl
@[simp] theorem State.emit_halt (e : Event) : (s.emit e).halt = s.halt := rfl
@[simp] theorem State.emit_inTick (e : Event) : (s.emit e).inTick = s.inTick := rfl
@[simp] theorem State.emit_stepCount (e : Event) : (s.emit e).stepCount = s.stepCount := rfl
@[simp] theorem State.emit_lifecycle (e : Event) : (s.emit e).lifecycle = s.lifecycle := rfl
@[simp] theorem State.emit_loading (e : Event) : (s.emit e).loading = s.loading := rfl
@[simp] theorem State.emit_events (e : Event) : (s.emit e).events = s.events ++ [e] := rfl
@[simp] theorem State.emit_commands (e : Event) : (s.emit e).commands = s.commands := rfl
@[simp] theorem State.emit_arrivals (e : Event) : (s.emit e).arrivals = s.arrivals := rfl
@[simp] theorem State.emit_draws (e : Event) : (s.emit e).draws = s.draws := rfl
@[simp] theorem State.emit_config (e : Event) : (s.emit e).config = s.config := rfl

/-! ## requestRender -/

@[simp] theorem State.requestRender_v : (s.requestRender).v = s.v := rfl
@[simp] theorem State.requestRender_i : (s.requestRender).i = s.i := rfl
@[simp] theorem State.requestRender_pc : (s.requestRender).pc = s.pc := rfl
@[simp] theorem State.requestRender_sp : (s.requestRender).sp = s.sp := rfl
@[simp] theorem State.requestRender_stack : (s.requestRender).stack = s.stack := rfl
@[simp] theorem State.requestRender_hp48 : (s.requestRender).hp48 = s.hp48 := rfl
@[simp] theorem State.requestRender_dt : (s.requestRender).dt = s.dt := rfl
@[simp] theorem State.requestRender_st : (s.requestRender).st = s.st := rfl
@[simp] theorem State.requestRender_mode : (s.requestRender).mode = s.mode := rfl
@[simp] theorem State.requestRender_altShift : (s.requestRender).altShift = s.altShift := rfl
@[simp] theorem State.requestRender_altStoreLoad : (s.requestRender).altStoreLoad = s.altStoreLoad := rfl
@[simp] theorem State.requestRender_mem : (s.requestRender).mem = s.mem := rfl
@[simp] theorem State.requestRender_vb : (s.requestRender).vb = s.vb := rfl
@[simp] theorem State.requestRender_keyCur : (s.requestRender).keyCur = s.keyCur := rfl
@[simp] theorem State.requestRender_keyPrev : (s.requestRender).keyPrev = s.keyPrev := rfl
@[simp] theorem State.requestRender_haltForRender : (s.requestRender).haltForRender = true := rfl
@[simp] theorem State.requestRender_stopReq : (s.requestRender).stopReq = s.stopReq := rfl
@[simp] theorem State.requestRender_halt : (s.requestRender).halt = s.halt := rfl
@[simp] theorem State.requestRender_inTick : (s.requestRender).inTick = s.inTick := rfl
@[simp] theorem State.requestRender_stepCount : (s.requestRender).stepCount = s.stepCount := rfl
@[simp] theorem State.requestRender_lifecycle : (s.requestRender).lifecycle = s.lifecycle := rfl
@[simp] theorem State.requestRender_loading : (s.requestRender).loading = s.loading := rfl
@[simp] theorem State.requestRender_events : (s.requestRender).events = s.events := rfl
@[simp] theorem State.requestRender_commands : (s.requestRender).commands = s.commands := rfl
@[simp] theorem State.requestRender_arrivals : (s.requestRender).arrivals = s.arrivals := rfl
@[simp] theorem State.requestRender_draws : (s.requestRender).draws = s.draws := rfl
@[simp] theorem State.requestRender_config : (s.requestRender).config = s.config := rfl

/-! ## setVb -/

@[simp] theorem State.setVb_v (b : VideoBuffer) : (s.setVb b).v = s.v := rfl
@[simp] theorem State.setVb_i (b : VideoBuffer) : (s.setVb b).i = s.i := rfl
@[simp] theorem State.setVb_pc (b : VideoBuffer) : (s.setVb b).pc = s.pc := rfl
@[simp] theorem State.setVb_sp (b : VideoBuffer) : (s.setVb b).sp = s.sp := rfl
@[simp] theorem State.setVb_stack (b : VideoBuffer) : (s.setVb b).stack = s.stack := rfl
@[simp] theorem State.setVb_hp48 (b : VideoBuffer) : (s.setVb b).hp48 = s.hp48 := rfl
@[simp] theorem State.setVb_dt (b : VideoBuffer) : (s.setVb b).dt = s.dt := rfl
@[simp] theorem State.setVb_st (b : VideoBuffer) : (s.setVb b).st = s.st := rfl
@[simp] theorem State.setVb_mode (b : VideoBuffer) : (s.setVb b).mode = s.mode := rfl
@[simp] theorem State.setVb_altShift (b : VideoBuffer) : (s.setVb b).altShift = s.altShift := rfl
@[simp] theorem State.setVb_altStoreLoad (b : VideoBuffer) : (s.setVb b).altStoreLoad = s.altStoreLoad := rfl
@[simp] theorem State.setVb_mem (b : VideoBuffer) : (s.setVb b).mem = s.mem := rfl
@[simp] theorem State.setVb_vb (b : VideoBuffer) : (s.setVb b).vb = b := rfl
@[simp] theorem State.setVb_keyCur (b : VideoBuffer) : (s.setVb b).keyCur = s.keyCur := rfl
@[simp] theorem State.setVb_keyPrev (b : VideoBuffer) : (s.setVb b).keyPrev = s.keyPrev := rfl
@[simp] theorem State.setVb_haltForRender (b : VideoBuffer) : (s.setVb b).haltForRender = s.haltForRender := rfl
@[simp] theorem State.setVb_stopReq (b : VideoBuffer) : (s.setVb b).stopReq = s.stopReq := rfl
@[simp] theorem State.setVb_halt (b : VideoBuffer) : (s.setVb b).halt = s.halt := rfl
@[simp] theorem State.setVb_inTick (b : VideoBuffer) : (s.setVb b).inTick = s.inTick := rfl
@[simp] theorem State.setVb_stepCount (b : VideoBuffer) : (s.setVb b).stepCount = s.stepCount := rfl
@[simp] theorem State.setVb_lifecycle (b : VideoBuffer) : (s.setVb b).lifecycle = s.lifecycle := rfl
@[simp] theorem State.setVb_loading (b : VideoBuffer) : (s.setVb b).loading = s.loading := rfl
@[simp] theorem State.setVb_events (b : VideoBuffer) : (s.setVb b).events = s.events := rfl
@[simp] theorem State.setVb_commands (b : VideoBuffer) : (s.setVb b).commands = s.commands := rfl
@[simp] theorem State.setVb_arrivals (b : VideoBuffer) : (s.setVb b).arrivals = s.arrivals := rfl
@[simp] theorem State.setVb_draws (b : VideoBuffer) : (s.setVb b).draws = s.draws := rfl
@[simp] theorem State.setVb_config (b : VideoBuffer) : (s.setVb b).config = s.config := rfl

/-! ## raiseHalt -/

@[simp] theorem State.raiseHalt_v (h : Halt) : (s.raiseHalt h).v = s.v := rfl
@[simp] theorem State.raiseHalt_i (h : Halt) : (s.raiseHalt h).i = s.i := rfl
@[simp] theorem State.raiseHalt_pc (h : Halt) : (s.raiseHalt h).pc = s.pc := rfl
@[simp] theorem State.raiseHalt_sp (h : Halt) : (s.raiseHalt h).sp = s.sp := rfl
@[simp] theorem State.raiseHalt_stack (h : Halt) : (s.raiseHalt h).stack = s.stack := rfl
@[simp] theorem State.raiseHalt_hp48 (h : Halt) : (s.raiseHalt h).hp48 = s.hp48 := rfl
@[simp] theorem State.raiseHalt_dt (h : Halt) : (s.raiseHalt h).dt = s.dt := rfl
@[simp] theorem State.raiseHalt_st (h : Halt) : (s.raiseHalt h).st = s.st := rfl
@[simp] theorem State.raiseHalt_mode (h : Halt) : (s.raiseHalt h).mode = s.mode := rfl
@[simp] theorem State.raiseHalt_altShift (h : Halt) : (s.raiseHalt h).altShift = s.altShift := rfl
@[simp] theorem State.raiseHalt_altStoreLoad (h : Halt) : (s.raiseHalt h).altStoreLoad = s.altStoreLoad := rfl
@[simp] theorem State.raiseHalt_mem (h : Halt) : (s.raiseHalt h).mem = s.mem := rfl
@[simp] theorem State.raiseHalt_vb (h : Halt) : (s.raiseHalt h).vb = s.vb := rfl
@[simp] theorem State.raiseHalt_keyCur (h : Halt) : (s.raiseHalt h).keyCur = s.keyCur := rfl
@[simp] theorem State.raiseHalt_keyPrev (h : Halt) : (s.raiseHalt h).keyPrev = s.keyPrev := rfl
@[simp] theorem State.raiseHalt_haltForRender (h : Halt) : (s.raiseHalt h).haltForRender = s.haltForRender := rfl
@[simp] theorem State.raiseHalt_stopReq (h : Halt) : (s.raiseHalt h).stopReq = true := rfl
@[simp] theorem State.raiseHalt_halt (h : Halt) : (s.raiseHalt h).halt = some h := rfl
@[simp] theorem State.raiseHalt_inTick (h : Halt) : (s.raiseHalt h).inTick = s.inTick := rfl
@[simp] theorem State.raiseHalt_stepCount (h : Halt) : (s.raiseHalt h).stepCount = s.stepCount := rfl
@[simp] theorem State.raiseHalt_lifecycle (h : Halt) : (s.raiseHalt h).lifecycle = s.lifecycle := rfl
@[simp] theorem State.raiseHalt_loading (h : Halt) : (s.raiseHalt h).loading = s.loading := rfl
@[simp] theorem State.raiseHalt_events (h : Halt) : (s.raiseHalt h).events = s.events := rfl
@[simp] theorem State.raiseHalt_commands (h : Halt) : (s.raiseHalt h).commands = s.commands := rfl
@[simp] theorem State.raiseHalt_arrivals (h : Halt) : (s.raiseHalt h).arrivals = s.arrivals := rfl
@[simp] theorem State.raiseHalt_draws (h : Halt) : (s.raiseHalt h).draws = s.draws := rfl
@[simp] theorem State.raiseHalt_config (h : Halt) : (s.raiseHalt h).config = s.config := rfl

/-! ## setKey -/

@[simp] theorem State.setKey_v (k : Fin 16) (x : KeyState) : (s.setKey k x).v = s.v := rfl
@[simp] theorem State.setKey_i (k : Fin 16) (x : KeyState) : (s.setKey k x).i = s.i := rfl
@[simp] theorem State.setKey_pc (k : Fin 16) (x : KeyState) : (s.setKey k x).pc = s.pc := rfl
@[simp] theorem State.setKey_sp (k : Fin 16) (x : KeyState) : (s.setKey k x).sp = s.sp := rfl
@[simp] theorem State.setKey_stack (k : Fin 16) (x : KeyState) : (s.setKey k x).stack = s.stack := rfl
@[simp] theorem State.setKey_hp48 (k : Fin 16) (x : KeyState) : (s.setKey k x).hp48 = s.hp48 := rfl
@[simp] theorem State.setKey_dt (k : Fin 16) (x : KeyState) : (s.setKey k x).dt = s.dt := rfl
@[simp] theorem State.setKey_st (k : Fin 16) (x : KeyState) : (s.setKey k x).st = s.st := rfl
@[simp] theorem State.setKey_mode (k : Fin 16) (x : KeyState) : (s.setKey k x).mode = s.mode := rfl
@[simp] theorem State.setKey_altShift (k : Fin 16) (x : KeyState) : (s.setKey k x).altShift = s.altShift := rfl
@[simp] theorem State.setKey_altStoreLoad (k : Fin 16) (x : KeyState) : (s.setKey k x).altStoreLoad = s.altStoreLoad := rfl
@[simp] theorem State.setKey_mem (k : Fin 16) (x : KeyState) : (s.setKey k x).mem = s.mem := rfl
@[simp] theorem State.setKey_vb (k : Fin 16) (x : KeyState) : (s.setKey k x).vb = s.vb := rfl
@[simp] theorem State.setKey_keyCur (k : Fin 16) (x : KeyState) : (s.setKey k x).keyCur = s.keyCur.set k.val x := rfl
@[simp] theorem State.setKey_keyPrev (k : Fin 16) (x : KeyState) : (s.setKey k x).keyPrev = s.keyPrev := rfl
@[simp] theorem State.setKey_haltForRender (k : Fin 16) (x : KeyState) : (s.setKey k x).haltForRender = s.haltForRender := rfl
@[simp] theorem State.setKey_stopReq (k : Fin 16) (x : KeyState) : (s.setKey k x).stopReq = s.stopReq := rfl
@[simp] theorem State.setKey_halt (k : Fin 16) (x : KeyState) : (s.setKey k x).halt = s.halt := rfl
@[simp] theorem State.setKey_inTick (k : Fin 16) (x : KeyState) : (s.setKey k x).inTick = s.inTick := rfl
@[simp] theorem State.setKey_stepCount (k : Fin 16) (x : KeyState) : (s.setKey k x).stepCount = s.stepCount := rfl
@[simp] theorem State.setKey_lifecycle (k : Fin 16) (x : KeyState) : (s.setKey k x).lifecycle = s.lifecycle := rfl
@[simp] theorem State.setKey_loading (k : Fin 16) (x : KeyState) : (s.setKey k x).loading = s.loading := rfl
@[simp] theorem State.setKey_events (k : Fin 16) (x : KeyState) : (s.setKey k x).events = s.events := rfl
@[simp] theorem State.setKey_commands (k : Fin 16) (x : KeyState) : (s.setKey k x).commands = s.commands := rfl
@[simp] theorem State.setKey_arrivals (k : Fin 16) (x : KeyState) : (s.setKey k x).arrivals = s.arrivals := rfl
@[simp] theorem State.setKey_draws (k : Fin 16) (x : KeyState) : (s.setKey k x).draws = s.draws := rfl
@[simp] theorem State.setKey_config (k : Fin 16) (x : KeyState) : (s.setKey k x).config = s.config := rfl

/-! ## signalFrame -/

@[simp] theorem State.signalFrame_v : (s.signalFrame).v = s.v := rfl
@[simp] theorem State.signalFrame_i : (s.signalFrame).i = s.i := rfl
@[simp] theorem State.signalFrame_pc : (s.signalFrame).pc = s.pc := rfl
@[simp] theorem State.signalFrame_sp : (s.signalFrame).sp = s.sp := rfl
@[simp] theorem State.signalFrame_stack : (s.signalFrame).stack = s.stack := rfl
@[simp] theorem State.signalFrame_hp48 : (s.signalFrame).hp48 = s.hp48 := rfl
@[simp] theorem State.signalFrame_dt : (s.signalFrame).dt = s.dt := rfl
@[simp] theorem State.signalFrame_st : (s.signalFrame).st = s.st := rfl
@[simp] theorem State.signalFrame_mode : (s.signalFrame).mode = s.mode := rfl
@[simp] theorem State.signalFrame_altShift : (s.signalFrame).altShift = s.altShift := rfl
@[simp] theorem State.signalFrame_altStoreLoad : (s.signalFrame).altStoreLoad = s.altStoreLoad := rfl
@[simp] theorem State.signalFrame_mem : (s.signalFrame).mem = s.mem := rfl
@[simp] theorem State.signalFrame_vb : (s.signalFrame).vb = s.vb := rfl
@[simp] theorem State.signalFrame_keyCur : (s.signalFrame).keyCur = s.keyCur := rfl
@[simp] theorem State.signalFrame_keyPrev : (s.signalFrame).keyPrev = s.keyPrev := rfl
@[simp] theorem State.signalFrame_haltForRender : (s.signalFrame).haltForRender = true := rfl
@[simp] theorem State.signalFrame_stopReq : (s.signalFrame).stopReq = s.stopReq := rfl
@[simp] theorem State.signalFrame_halt : (s.signalFrame).halt = s.halt := rfl
@[simp] theorem State.signalFrame_inTick : (s.signalFrame).inTick = s.inTick := rfl
@[simp] theorem State.signalFrame_stepCount : (s.signalFrame).stepCount = s.stepCount := rfl
@[simp] theorem State.signalFrame_lifecycle : (s.signalFrame).lifecycle = s.lifecycle := rfl
@[simp] theorem State.signalFrame_loading : (s.signalFrame).loading = s.loading := rfl
@[simp] theorem State.signalFrame_events : (s.signalFrame).events = s.events ++ [.frameReady s.vb] := rfl
@[simp] theorem State.signalFrame_commands : (s.signalFrame).commands = s.commands := rfl
@[simp] theorem State.signalFrame_arrivals : (s.signalFrame).arrivals = s.arrivals := rfl
@[simp] theorem State.signalFrame_draws : (s.signalFrame).draws = s.draws := rfl
@[simp] theorem State.signalFrame_config : (s.signalFrame).config = s.config := rfl

/-! ## setResultAndFlag -/

@[simp] theorem State.setResultAndFlag_v (x : Reg) (a b : Byte) : (s.setResultAndFlag x a b).v = (s.v.set x.val a).set vf.val b := rfl
@[simp] theorem State.setResultAndFlag_i (x : Reg) (a b : Byte) : (s.setResultAndFlag x a b).i = s.i := rfl
@[simp] theorem State.setResultAndFlag_pc (x : Reg) (a b : Byte) : (s.setResultAndFlag x a b).pc = s.pc := rfl
@[simp] theorem State.setResultAndFlag_sp (x : Reg) (a b : Byte) : (s.setResultAndFlag x a b).sp = s.sp := rfl
@[simp] theorem State.setResultAndFlag_stack (x : Reg) (a b : Byte) : (s.setResultAndFlag x a b).stack = s.stack := rfl
@[simp] theorem State.setResultAndFlag_hp48 (x : Reg) (a b : Byte) : (s.setResultAndFlag x a b).hp48 = s.hp48 := rfl
@[simp] theorem State.setResultAndFlag_dt (x : Reg) (a b : Byte) : (s.setResultAndFlag x a b).dt = s.dt := rfl
@[simp] theorem State.setResultAndFlag_st (x : Reg) (a b : Byte) : (s.setResultAndFlag x a b).st = s.st := rfl
@[simp] theorem State.setResultAndFlag_mode (x : Reg) (a b : Byte) : (s.setResultAndFlag x a b).mode = s.mode := rfl
@[simp] theorem State.setResultAndFlag_altShift (x : Reg) (a b : Byte) : (s.setResultAndFlag x a b).altShift = s.altShift := rfl
@[simp] theorem State.setResultAndFlag_altStoreLoad (x : Reg) (a b : Byte) : (s.setResultAndFlag x a b).altStoreLoad = s.altStoreLoad := rfl
@[simp] theorem State.setResultAndFlag_mem (x : Reg) (a b : Byte) : (s.setResultAndFlag x a b).mem = s.mem := rfl
@[simp] theorem State.setResultAndFlag_vb (x : Reg) (a b : Byte) : (s.setResultAndFlag x a b).vb = s.vb := rfl
@[simp] theorem State.setResultAndFlag_keyCur (x : Reg) (a b : Byte) : (s.setResultAndFlag x a b).keyCur = s.keyCur := rfl
@[simp] theorem State.setResultAndFlag_keyPrev (x : Reg) (a b : Byte) : (s.setResultAndFlag x a b).keyPrev = s.keyPrev := rfl
@[simp] theorem State.setResultAndFlag_haltForRender (x : Reg) (a b : Byte) : (s.setResultAndFlag x a b).haltForRender = s.haltForRender := rfl
@[simp] theorem State.setResultAndFlag_stopReq (x : Reg) (a b : Byte) : (s.setResultAndFlag x a b).stopReq = s.stopReq := rfl
@[simp] theorem State.setResultAndFlag_halt (x : Reg) (a b : Byte) : (s.setResultAndFlag x a b).halt = s.halt := rfl
@[simp] theorem State.setResultAndFlag_inTick (x : Reg) (a b : Byte) : (s.setResultAndFlag x a b).inTick = s.inTick := rfl
@[simp] theorem State.setResultAndFlag_stepCount (x : Reg) (a b : Byte) : (s.setResultAndFlag x a b).stepCount = s.stepCount := rfl
@[simp] theorem State.setResultAndFlag_lifecycle (x : Reg) (a b : Byte) : (s.setResultAndFlag x a b).lifecycle = s.lifecycle := rfl
@[simp] theorem State.setResultAndFlag_loading (x : Reg) (a b : Byte) : (s.setResultAndFlag x a b).loading = s.loading := rfl
@[simp] theorem State.setResultAndFlag_events (x : Reg) (a b : Byte) : (s.setResultAndFlag x a b).events = s.events := rfl
@[simp] theorem State.setResultAndFlag_commands (x : Reg) (a b : Byte) : (s.setResultAndFlag x a b).commands = s.commands := rfl
@[simp] theorem State.setResultAndFlag_arrivals (x : Reg) (a b : Byte) : (s.setResultAndFlag x a b).arrivals = s.arrivals := rfl
@[simp] theorem State.setResultAndFlag_draws (x : Reg) (a b : Byte) : (s.setResultAndFlag x a b).draws = s.draws := rfl
@[simp] theorem State.setResultAndFlag_config (x : Reg) (a b : Byte) : (s.setResultAndFlag x a b).config = s.config := rfl

/-! ## switchMode -/

@[simp] theorem State.switchMode_v (m : Mode) : (s.switchMode m).v = s.v := rfl
@[simp] theorem State.switchMode_i (m : Mode) : (s.switchMode m).i = s.i := rfl
@[simp] theorem State.switchMode_pc (m : Mode) : (s.switchMode m).pc = s.pc := rfl
@[simp] theorem State.switchMode_sp (m : Mode) : (s.switchMode m).sp = s.sp := rfl
@[simp] theorem State.switchMode_stack (m : Mode) : (s.switchMode m).stack = s.stack := rfl
@[simp] theorem State.switchMode_hp48 (m : Mode) : (s.switchMode m).hp48 = s.hp48 := rfl
@[simp] theorem State.switchMode_dt (m : Mode) : (s.switchMode m).dt = s.dt := rfl
@[simp] theorem State.switchMode_st (m : Mode) : (s.switchMode m).st = s.st := rfl
@[simp] theorem State.switchMode_mode (m : Mode) : (s.switchMode m).mode = m := rfl
@[simp] theorem State.switchMode_altShift (m : Mode) : (s.switchMode m).altShift = s.altShift := rfl
@[simp] theorem State.switchMode_altStoreLoad (m : Mode) : (s.switchMode m).altStoreLoad = s.altStoreLoad := rfl
@[simp] theorem State.switchMode_mem (m : Mode) : (s.switchMode m).mem = s.mem := rfl
@[simp] theorem State.switchMode_vb (m : Mode) : (s.switchMode m).vb = VideoBuffer.clear := rfl
@[simp] theorem State.switchMode_keyCur (m : Mode) : (s.switchMode m).keyCur = s.keyCur := rfl
@[simp] theorem State.switchMode_keyPrev (m : Mode) : (s.switchMode m).keyPrev = s.keyPrev := rfl
@[simp] theorem State.switchMode_haltForRender (m : Mode) : (s.switchMode m).haltForRender = true := rfl
@[simp] theorem State.switchMode_stopReq (m : Mode) : (s.switchMode m).stopReq = s.stopReq := rfl
@[simp] theorem State.switchMode_halt (m : Mode) : (s.switchMode m).halt = s.halt := rfl
@[simp] theorem State.switchMode_inTick (m : Mode) : (s.switchMode m).inTick = s.inTick := rfl
@[simp] theorem State.switchMode_stepCount (m : Mode) : (s.switchMode m).stepCount = s.stepCount := rfl
@[simp] theorem State.switchMode_lifecycle (m : Mode) : (s.switchMode m).lifecycle = s.lifecycle := rfl
@[simp] theorem State.switchMode_loading (m : Mode) : (s.switchMode m).loading = s.loading := rfl
@[simp] theorem State.switchMode_events (m : Mode) : (s.switchMode m).events = s.events := rfl
@[simp] theorem State.switchMode_commands (m : Mode) : (s.switchMode m).commands = s.commands := rfl
@[simp] theorem State.switchMode_arrivals (m : Mode) : (s.switchMode m).arrivals = s.arrivals := rfl
@[simp] theorem State.switchMode_draws (m : Mode) : (s.switchMode m).draws = s.draws := rfl
@[simp] theorem State.switchMode_config (m : Mode) : (s.switchMode m).config = s.config := rfl

/-! ## advancePc -/

@[simp] theorem State.advancePc_v : (s.advancePc).v = s.v := rfl
@[simp] theorem State.advancePc_i : (s.advancePc).i = s.i := rfl
@[simp] theorem State.advancePc_pc : (s.advancePc).pc = s.pc + 2#12 := rfl
@[simp] theorem State.advancePc_sp : (s.advancePc).sp = s.sp := rfl
@[simp] theorem State.advancePc_stack : (s.advancePc).stack = s.stack := rfl
@[simp] theorem State.advancePc_hp48 : (s.advancePc).hp48 = s.hp48 := rfl
@[simp] theorem State.advancePc_dt : (s.advancePc).dt = s.dt := rfl
@[simp] theorem State.advancePc_st : (s.advancePc).st = s.st := rfl
@[simp] theorem State.advancePc_mode : (s.advancePc).mode = s.mode := rfl
@[simp] theorem State.advancePc_altShift : (s.advancePc).altShift = s.altShift := rfl
@[simp] theorem State.advancePc_altStoreLoad : (s.advancePc).altStoreLoad = s.altStoreLoad := rfl
@[simp] theorem State.advancePc_mem : (s.advancePc).mem = s.mem := rfl
@[simp] theorem State.advancePc_vb : (s.advancePc).vb = s.vb := rfl
@[simp] theorem State.advancePc_keyCur : (s.advancePc).keyCur = s.keyCur := rfl
@[simp] theorem State.advancePc_keyPrev : (s.advancePc).keyPrev = s.keyPrev := rfl
@[simp] theorem State.advancePc_haltForRender : (s.advancePc).haltForRender = s.haltForRender := rfl
@[simp] theorem State.advancePc_stopReq : (s.advancePc).stopReq = s.stopReq := rfl
@[simp] theorem State.advancePc_halt : (s.advancePc).halt = s.halt := rfl
@[simp] theorem State.advancePc_inTick : (s.advancePc).inTick = s.inTick := rfl
@[simp] theorem State.advancePc_stepCount : (s.advancePc).stepCount = s.stepCount := rfl
@[simp] theorem State.advancePc_lifecycle : (s.advancePc).lifecycle = s.lifecycle := rfl
@[simp] theorem State.advancePc_loading : (s.advancePc).loading = s.loading := rfl
@[simp] theorem State.advancePc_events : (s.advancePc).events = s.events := rfl
@[simp] theorem State.advancePc_commands : (s.advancePc).commands = s.commands := rfl
@[simp] theorem State.advancePc_arrivals : (s.advancePc).arrivals = s.arrivals := rfl
@[simp] theorem State.advancePc_draws : (s.advancePc).draws = s.draws := rfl
@[simp] theorem State.advancePc_config : (s.advancePc).config = s.config := rfl

end Sys2Proof.Machine
end

