-- ==== Sys2Proof/Laws/Memory.lean ====
section
/-! SUPPORT. The laws of RAM: read after write, the canonical form kept, equal reads mean equal memories, and what the byte operations of the state do to every byte. -/

namespace Sys2Proof.Machine

variable {c : Config} {m : Memory} {a b : Nat} {x : Byte}

theorem wrapAddr_lt (a : Nat) : wrapAddr a < ramSize := Nat.mod_lt _ (by decide)

theorem wrapAddr_of_lt (h : a < ramSize) : wrapAddr a = a := Nat.mod_eq_of_lt h

@[simp] theorem wrapAddr_wrapAddr (a : Nat) : wrapAddr (wrapAddr a) = wrapAddr a := Nat.mod_mod _ _

/-- A read below every listed address finds none of them. -/
theorem Memory.read_of_lt (h : ∀ p ∈ m, a < p.1) : Memory.read c m a = Memory.unlisted c a := by
  induction m with
  | nil => rfl
  | cons p m ih =>
    have hp : a ≠ p.1 := Nat.ne_of_lt (h p (by simp))
    simp only [Memory.read, hp, if_false]
    exact ih fun q hq => h q (by simp [hq])

/-- A read after a write: the byte written at its address, the old byte everywhere else. -/
theorem Memory.read_write (hm : Memory.wf c m) :
    Memory.read c (Memory.write c m a x) b = if b = a then x else Memory.read c m b := by
  induction m with
  | nil =>
    by_cases hx : x = Memory.unlisted c a <;> by_cases hb : b = a <;> simp_all [Memory.write, Memory.read]
  | cons p m ih =>
    obtain ⟨q, w⟩ := p
    have hm' : Memory.wf c m := ⟨(List.pairwise_cons.1 hm.1).2, fun r hr => hm.2 r (by simp [hr])⟩
    have hlt : ∀ r ∈ m, q < r.1 := (List.pairwise_cons.1 hm.1).1
    simp only [Memory.write]
    split
    · next h =>
      have hlow : Memory.read c ((q, w) :: m) a = Memory.unlisted c a :=
        Memory.read_of_lt fun r hr => by
          rcases List.mem_cons.1 hr with rfl | hr
          · exact h
          · exact lt_trans h (hlt r hr)
      split
      · next hx => by_cases hb : b = a <;> simp_all
      · by_cases hb : b = a <;> simp_all [Memory.read]
    · split
      · next h1 h2 =>
        subst h2
        split
        · next hx =>
          by_cases hb : b = a
          · subst hb; rw [Memory.read_of_lt hlt]; simp [hx]
          · simp [Memory.read, hb]
        · by_cases hb : b = a <;> simp [Memory.read, hb]
      · next h1 h2 =>
        simp only [Memory.read, ih hm']
        by_cases hb : b = q
        · have : b ≠ a := by omega
          simp [hb, Ne.symm h2]
        · simp [hb]

/-- Every cell of a written memory is the new one or an old one at another address. -/
theorem Memory.mem_write {p : Host.Cell} (hp : p ∈ Memory.write c m a x) :
    p ∈ m ∨ (p = (a, x) ∧ x ≠ Memory.unlisted c a) := by
  induction m with
  | nil =>
    simp only [Memory.write] at hp
    split at hp <;> simp_all
  | cons q m ih =>
    obtain ⟨q, w⟩ := q
    simp only [Memory.write] at hp
    split at hp
    · split at hp <;> simp_all
      tauto
    · split at hp
      · split at hp <;> simp_all
        tauto
      · rcases List.mem_cons.1 hp with rfl | hp
        · simp
        · rcases ih hp with h | h
          · simp [h]
          · simp [h]

/-- A write keeps the canonical form. -/
theorem Memory.write_wf (hm : Memory.wf c m) (ha : a < ramSize) : Memory.wf c (Memory.write c m a x) := by
  refine ⟨?_, fun p hp => ?_⟩
  · induction m with
    | nil => simp only [Memory.write]; split <;> simp
    | cons p m ih =>
      obtain ⟨q, w⟩ := p
      have hq := List.pairwise_cons.1 hm.1
      have hm' : Memory.wf c m := ⟨hq.2, fun r hr => hm.2 r (by simp [hr])⟩
      simp only [Memory.write]
      split
      · next h =>
        split
        · exact hm.1
        · refine List.pairwise_cons.2 ⟨fun r hr => ?_, hm.1⟩
          rcases List.mem_cons.1 hr with rfl | hr
          · exact h
          · exact lt_trans h (hq.1 r hr)
      · split
        · next h1 h2 =>
          subst h2
          split
          · exact hq.2
          · exact List.pairwise_cons.2 ⟨hq.1, hq.2⟩
        · next h1 h2 =>
          refine List.pairwise_cons.2 ⟨fun r hr => ?_, ih hm'⟩
          rcases Memory.mem_write hr with hr | ⟨rfl, -⟩
          · exact hq.1 r hr
          · show q < a; omega
  · rcases Memory.mem_write hp with hp | ⟨rfl, hx⟩
    · exact hm.2 p hp
    · exact ⟨ha, hx⟩

theorem Memory.nil_wf (c : Config) : Memory.wf c [] := by simp [Memory.wf]

/-- A listed cell of a canonical memory is what its address reads as. -/
theorem Memory.read_of_mem (hm : Memory.wf c m) {p : Host.Cell} (hp : p ∈ m) : Memory.read c m p.1 = p.2 := by
  induction m with
  | nil => simp at hp
  | cons q m ih =>
    have hq := List.pairwise_cons.1 hm.1
    rcases List.mem_cons.1 hp with rfl | hp
    · simp [Memory.read]
    · have : p.1 ≠ q.1 := Nat.ne_of_gt (hq.1 p hp)
      simp only [Memory.read, this, if_false]
      exact ih ⟨hq.2, fun r hr => hm.2 r (by simp [hr])⟩ hp

/-- An address that reads as more than its unlisted byte is listed. -/
theorem Memory.mem_of_read (h : Memory.read c m a ≠ Memory.unlisted c a) : (a, Memory.read c m a) ∈ m := by
  induction m with
  | nil => exact absurd rfl h
  | cons q m ih =>
    obtain ⟨q, w⟩ := q
    by_cases hq : a = q
    · subst hq; simp [Memory.read]
    · simp only [Memory.read, hq, if_false] at h ⊢
      exact List.mem_cons_of_mem _ (ih h)

/-! ## The state's byte operations -/

theorem State.readByte_congr {s t : State} (hc : t.config = s.config) (hm : t.mem = s.mem) (a : Nat) :
    t.readByte a = s.readByte a := by simp [State.readByte, hc, hm]

theorem State.readByte_wrapAddr (s : State) (a : Nat) : s.readByte (wrapAddr a) = s.readByte a := by
  simp [State.readByte]

theorem State.readByte_writeByte {s : State} (hm : Memory.wf s.config s.mem) (a b : Nat) (x : Byte) :
    (s.writeByte a x).readByte b = if wrapAddr b = wrapAddr a then x else s.readByte b := by
  simp [State.readByte, Memory.read_write hm]

theorem State.writeByte_wf {s : State} (hm : Memory.wf s.config s.mem) (a : Nat) (x : Byte) :
    Memory.wf (s.writeByte a x).config (s.writeByte a x).mem := by
  simpa using Memory.write_wf hm (wrapAddr_lt a)

/-- `storeBytes` writes RAM and nothing else. -/
theorem State.storeBytes_eq (s : State) (a : Nat) (xs : List Byte) :
    s.storeBytes a xs = { s with mem := (s.storeBytes a xs).mem } := by
  induction xs generalizing s a with
  | nil => rfl
  | cons x xs ih =>
    simp only [State.storeBytes]
    rw [ih]
    rfl

theorem State.storeBytes_config (s : State) (a : Nat) (xs : List Byte) :
    (s.storeBytes a xs).config = s.config := by rw [State.storeBytes_eq]

theorem State.storeBytes_wf {s : State} (hm : Memory.wf s.config s.mem) (a : Nat) (xs : List Byte) :
    Memory.wf s.config (s.storeBytes a xs).mem := by
  induction xs generalizing s a with
  | nil => exact hm
  | cons x xs ih => exact ih (State.writeByte_wf hm a x) (a + 1)

/-- What `storeBytes` does to every byte: at most 4096 bytes written from `a` on, each where it belongs, and the
rest kept. -/
theorem State.readByte_storeBytes {s : State} (hm : Memory.wf s.config s.mem) (a : Nat) (xs : List Byte) (b : Nat)
    (hlen : xs.length ≤ ramSize) :
    (∀ k, (h : k < xs.length) → wrapAddr b = wrapAddr (a + k) → (s.storeBytes a xs).readByte b = xs[k]) ∧
    ((∀ k, k < xs.length → wrapAddr b ≠ wrapAddr (a + k)) → (s.storeBytes a xs).readByte b = s.readByte b) := by
  induction xs generalizing s a with
  | nil => simp [State.storeBytes]
  | cons x xs ih =>
    have ih' := ih (State.writeByte_wf hm a x) (a + 1) (by simp at hlen; omega)
    have hlen' : xs.length + 1 ≤ 4096 := by simpa [ramSize] using hlen
    refine ⟨fun k hk hb => ?_, fun hno => ?_⟩
    · cases k with
      | zero =>
        simp only [State.storeBytes, List.getElem_cons_zero]
        rw [ih'.2, State.readByte_writeByte hm]
        · simp [by simpa using hb]
        · intro j hj hbj
          have : wrapAddr (a + 1 + j) = wrapAddr (a + 0) := by rw [← hbj, ← hb]
          simp only [wrapAddr, ramSize] at this
          omega
      | succ k =>
        simp only [State.storeBytes, List.getElem_cons_succ]
        exact ih'.1 k (by simpa using hk) (by rw [hb]; congr 1; omega)
    · simp only [State.storeBytes]
      rw [ih'.2, State.readByte_writeByte hm]
      · have := hno 0 (by simp)
        simp only [Nat.add_zero] at this
        simp [this]
      · intro j hj hbj
        exact hno (j + 1) (by simpa using hj) (by rw [hbj]; congr 1; omega)

/-- `LoadROM` keeps the canonical form. -/
theorem Memory.loadRom_wf (hm : Memory.wf c m) (xs : List Byte) (a : Nat) (h : a + xs.length ≤ ramSize) :
    Memory.wf c (Memory.loadRom c a xs m) := by
  induction xs generalizing a with
  | nil => exact hm
  | cons x xs ih =>
    simp only [List.length_cons] at h
    exact Memory.write_wf (ih (a + 1) (by omega)) (by omega)

/-- What `LoadROM` leaves at every address (R79). -/
theorem Memory.read_loadRom (hm : Memory.wf c m) (xs : List Byte) (a : Nat) (h : a + xs.length ≤ ramSize) (b : Nat) :
    Memory.read c (Memory.loadRom c a xs m) b =
      if a ≤ b then (xs[b - a]?).getD (Memory.read c m b) else Memory.read c m b := by
  induction xs generalizing a with
  | nil => simp [Memory.loadRom]
  | cons x xs ih =>
    simp only [List.length_cons] at h
    simp only [Memory.loadRom]
    rw [Memory.read_write (Memory.loadRom_wf hm xs (a + 1) (by omega)), ih (a + 1) (by omega)]
    by_cases hb : b = a
    · simp [hb]
    · by_cases hle : a ≤ b
      · obtain ⟨d, rfl⟩ : ∃ d, b = a + 1 + d := ⟨b - (a + 1), by omega⟩
        have e1 : a + 1 + d - a = d + 1 := by omega
        have e2 : a + 1 + d - (a + 1) = d := by omega
        simp [hb, hle, e1, e2]
      · have : ¬ a + 1 ≤ b := by omega
        simp [hb, hle, this]

end Sys2Proof.Machine
end

