-- ==== Sys2Proof/Laws/Video.lean ====
section
/-! SUPPORT. What each operation on the video buffer does to every cell. -/

namespace Sys2Proof.Machine

theorem VideoBuffer.getPixel_of_lt (vb : VideoBuffer) {x y : Nat} (hy : y < 64) :
    VideoBuffer.getPixel vb x y = (vb[y]).getLsbD x := by
  simp [VideoBuffer.getPixel, hy]

theorem VideoBuffer.getPixel_of_row_ge (vb : VideoBuffer) {x y : Nat} (hy : 64 ≤ y) :
    VideoBuffer.getPixel vb x y = false := by
  have h : vb[y]? = none := by simp; omega
  simp [VideoBuffer.getPixel, h]

theorem VideoBuffer.getPixel_of_column_ge (vb : VideoBuffer) {x y : Nat} (hx : 128 ≤ x) :
    VideoBuffer.getPixel vb x y = false := by
  simp only [VideoBuffer.getPixel]
  exact BitVec.getLsbD_of_ge _ _ hx

@[simp] theorem VideoBuffer.getPixel_clear (x y : Nat) : VideoBuffer.getPixel VideoBuffer.clear x y = false := by
  by_cases hy : y < 64
  · simp [VideoBuffer.getPixel_of_lt, hy, VideoBuffer.clear]
  · exact VideoBuffer.getPixel_of_row_ge _ (by omega)

/-- A toggle flips its cell and keeps every other (R80). -/
theorem VideoBuffer.getPixel_togglePixel (vb : VideoBuffer) {cx cy : Nat} (hx : cx < 128) (hy : cy < 64) (x y : Nat) :
    VideoBuffer.getPixel (VideoBuffer.togglePixel vb cx cy) x y =
      (VideoBuffer.getPixel vb x y ^^ decide (x = cx ∧ y = cy)) := by
  by_cases hy' : y < 64
  · rw [VideoBuffer.getPixel_of_lt _ hy', VideoBuffer.getPixel_of_lt _ hy']
    by_cases h : y = cy
    · subst h
      by_cases hx' : x < 128
      · by_cases hxx : x = cx
        · subst hxx; simp [VideoBuffer.togglePixel, hy, hx]
        · by_cases hlt : x < cx
          · simp [VideoBuffer.togglePixel, hy, hx', hxx, hlt]
          · have : x - cx ≠ 0 := by omega
            simp [VideoBuffer.togglePixel, hy, hx', hxx, hlt, this]
      · have : x ≠ cx := by omega
        simp [this, BitVec.getLsbD_of_ge _ _ (Nat.le_of_not_lt hx')]
    · have : cy ≠ y := fun e => h e.symm
      simp [VideoBuffer.togglePixel, h, this]
  · rw [VideoBuffer.getPixel_of_row_ge _ (Nat.le_of_not_lt hy'), VideoBuffer.getPixel_of_row_ge _ (Nat.le_of_not_lt hy')]
    have : y ≠ cy := by omega
    simp [this]

theorem VideoBuffer.getPixel_scrollRight (vb : VideoBuffer) {x y : Nat} (hx : x < 128) (hy : y < 64) :
    VideoBuffer.getPixel (VideoBuffer.scrollRight vb) x y = (decide (4 ≤ x) && VideoBuffer.getPixel vb (x - 4) y) := by
  by_cases h : x < 4
  · have : ¬ 4 ≤ x := by omega
    simp [VideoBuffer.getPixel_of_lt _ hy, VideoBuffer.scrollRight, h, this]
  · have : 4 ≤ x := by omega
    simp [VideoBuffer.getPixel_of_lt _ hy, VideoBuffer.scrollRight, h, hx, this]
    exact (BitVec.getLsbD_eq_getElem (by omega)).symm

theorem VideoBuffer.getPixel_scrollLeft (vb : VideoBuffer) {x y : Nat} (hy : y < 64) :
    VideoBuffer.getPixel (VideoBuffer.scrollLeft vb) x y = (decide (x ≤ 123) && VideoBuffer.getPixel vb (x + 4) y) := by
  by_cases h : x ≤ 123
  · simp [VideoBuffer.getPixel_of_lt _ hy, VideoBuffer.scrollLeft, h, Nat.add_comm]
  · rw [VideoBuffer.getPixel_of_column_ge vb (x := x + 4) (by omega)]
    simp [VideoBuffer.getPixel_of_lt _ hy, VideoBuffer.scrollLeft]
    exact BitVec.getLsbD_of_ge _ _ (by omega)

theorem VideoBuffer.getPixel_scrollDown (vb : VideoBuffer) (n : Nat) {x y : Nat} (hy : y < 64) :
    VideoBuffer.getPixel (VideoBuffer.scrollDown vb n) x y = (decide (n ≤ y) && VideoBuffer.getPixel vb x (y - n)) := by
  by_cases h : n ≤ y
  · have hlt : y - n < 64 := by omega
    simp [VideoBuffer.getPixel_of_lt _ hy, VideoBuffer.getPixel_of_lt _ hlt, VideoBuffer.scrollDown, h]
  · simp [VideoBuffer.getPixel_of_lt _ hy, VideoBuffer.scrollDown, h]

/-- Two buffers that agree in every cell are the same buffer. -/
theorem VideoBuffer.ext_getPixel {a b : VideoBuffer}
    (h : ∀ x y, x < 128 → y < 64 → VideoBuffer.getPixel a x y = VideoBuffer.getPixel b x y) : a = b := by
  apply Vector.ext
  intro y hy
  apply BitVec.eq_of_getLsbD_eq
  intro x hx
  simpa [VideoBuffer.getPixel_of_lt _ hy] using h x y hx hy

/-- Drawing cells that are inside the buffer and all different flips exactly them, and the flag says whether any
of them was 1 (R254, R258 f). -/
theorem VideoBuffer.drawCells_spec (vb : VideoBuffer) (cells : List VbCell) (hn : cells.Nodup)
    (hin : ∀ c ∈ cells, c.1 < 128 ∧ c.2 < 64) :
    (∀ x y, VideoBuffer.getPixel (VideoBuffer.drawCells vb cells).1 x y =
      (VideoBuffer.getPixel vb x y ^^ decide ((x, y) ∈ cells))) ∧
    ((VideoBuffer.drawCells vb cells).2 = true ↔ ∃ c ∈ cells, VideoBuffer.getPixel vb c.1 c.2 = true) := by
  have key : ∀ (cells : List VbCell) (p : VideoBuffer × Bool), cells.Nodup → (∀ c ∈ cells, c.1 < 128 ∧ c.2 < 64) →
      (∀ x y, VideoBuffer.getPixel (cells.foldl VideoBuffer.drawCell p).1 x y =
        (VideoBuffer.getPixel p.1 x y ^^ decide ((x, y) ∈ cells))) ∧
      ((cells.foldl VideoBuffer.drawCell p).2 = true ↔
        p.2 = true ∨ ∃ c ∈ cells, VideoBuffer.getPixel p.1 c.1 c.2 = true) := by
    intro cells
    induction cells with
    | nil => intro p _ _; simp
    | cons c cells ih =>
      intro p hn hin
      have hc := hin c (by simp)
      obtain ⟨hcn, hn'⟩ := List.nodup_cons.1 hn
      obtain ⟨ih1, ih2⟩ := ih (VideoBuffer.drawCell p c) hn' (fun d hd => hin d (by simp [hd]))
      refine ⟨fun x y => ?_, ?_⟩
      · rw [List.foldl_cons, ih1]
        simp only [VideoBuffer.drawCell, VideoBuffer.getPixel_togglePixel _ hc.1 hc.2]
        by_cases h : (x, y) = c
        · subst h; simp [hcn]
        · have : ¬ (x = c.1 ∧ y = c.2) := fun ⟨e1, e2⟩ => h (by ext <;> simp [e1, e2])
          simp [h, this]
      · rw [List.foldl_cons, ih2]
        simp only [VideoBuffer.drawCell, Bool.or_eq_true, List.mem_cons, exists_eq_or_imp]
        have : ∀ d ∈ cells, VideoBuffer.getPixel (VideoBuffer.togglePixel p.1 c.1 c.2) d.1 d.2 =
            VideoBuffer.getPixel p.1 d.1 d.2 := by
          intro d hd
          rw [VideoBuffer.getPixel_togglePixel _ hc.1 hc.2]
          have : ¬ (d.1 = c.1 ∧ d.2 = c.2) := fun ⟨e1, e2⟩ => hcn (by
            have : d = c := by ext <;> simp [e1, e2]
            exact this ▸ hd)
          simp [this]
        constructor
        · rintro ((h | h) | ⟨d, hd, h⟩)
          · exact .inl h
          · exact .inr (.inl h)
          · exact .inr (.inr ⟨d, hd, (this d hd) ▸ h⟩)
        · rintro (h | h | ⟨d, hd, h⟩)
          · exact .inl (.inl h)
          · exact .inl (.inr h)
          · exact .inr ⟨d, hd, (this d hd).symm ▸ h⟩
  simpa [VideoBuffer.drawCells] using key cells (vb, false) hn hin

end Sys2Proof.Machine
end

