-- ==== Sys2Proof/Laws/Ops.lean ====
section
/-! SUPPORT. What each shared operation does, said once: registers, flags, skips, the address guard, the call stack, the fetch, the register blocks, the HP48 bytes and the keys. -/

namespace Sys2Proof.Machine

/-! ## Registers and flags -/

theorem State.reg_congr {s t : State} (h : t.v = s.v) (r : Reg) : t.reg r = s.reg r := by
  simp [State.reg, h]

@[simp] theorem State.reg_setReg (s : State) (r q : Reg) (x : Byte) :
    (s.setReg r x).reg q = if q = r then x else s.reg q := by
  by_cases h : q = r
  · subst h; simp [State.reg]
  · have : r.val ≠ q.val := fun e => h (Fin.ext e.symm)
    simp [State.reg, h, this]

/-- The flag is written last, so VF ends as the flag even when it is the destination (R182). -/
@[simp] theorem State.reg_setResultAndFlag (s : State) (x q : Reg) (a b : Byte) :
    (s.setResultAndFlag x a b).reg q = if q = vf then b else if q = x then a else s.reg q := by
  simp [State.setResultAndFlag]

@[simp] theorem flagByte_toNat (b : Bool) : (flagByte b).toNat = if b then 1 else 0 := by
  cases b <;> rfl

/-- A skip changes PC alone, by 2 when its condition holds (R153). -/
theorem State.skipIf_eq (s : State) (b : Bool) :
    s.skipIf b = { s with pc := if b then s.pc + 2#12 else s.pc } := by
  cases b <;> rfl

/-! ## Addresses -/

theorem State.firstBadAddr_wrap {s : State} (h : s.config.addrOob = .wrap) (addrs : List Nat) :
    s.firstBadAddr addrs = none := by simp [State.firstBadAddr, h]

/-- Addresses that all lie in RAM are refused by no policy. -/
theorem State.firstBadAddr_of_lt {s : State} {addrs : List Nat} (h : ∀ a ∈ addrs, a < ramSize) :
    s.firstBadAddr addrs = none := by
  cases hp : s.config.addrOob with
  | wrap => simp [State.firstBadAddr, hp]
  | fault =>
    simp only [State.firstBadAddr, hp, List.find?_eq_none, decide_eq_true_eq, not_le]
    exact h

/-- The `n` addresses from I on: under `fault` the first refused one, if any, is 4096. -/
theorem State.firstBadAddr_indexAddrs {s : State} (h : s.config.addrOob = .fault) (n : Nat) :
    s.firstBadAddr (s.indexAddrs n) = if 4096 < s.i.toNat + n then some 4096 else none := by
  have hi : s.i.toNat < 4096 := s.i.isLt
  split
  · next hlt =>
    have hram : ramSize = 4096 := rfl
    simp only [State.firstBadAddr, h, State.indexAddrs]
    have hsplit : List.range n = List.range (4096 - s.i.toNat) ++
        (List.range (n - (4096 - s.i.toNat))).map (fun k => 4096 - s.i.toNat + k) := by
      rw [← List.range_add]; congr 1; omega
    rw [hsplit, List.map_append, List.find?_append]
    have hnone : (List.map (fun k => s.i.toNat + k) (List.range (4096 - s.i.toNat))).find?
        (fun a => decide (ramSize ≤ a)) = none := by
      simp only [List.find?_eq_none, List.mem_map, List.mem_range]
      rintro a ⟨k, hk, rfl⟩
      simp only [decide_eq_true_eq]; omega
    rw [hnone]
    obtain ⟨d, hd⟩ : ∃ d, n - (4096 - s.i.toNat) = d + 1 := ⟨n - (4096 - s.i.toNat) - 1, by omega⟩
    have h0 : s.i.toNat + (4096 - s.i.toNat + 0) = 4096 := by omega
    rw [hd, List.range_succ_eq_map]
    simp only [List.map_cons, List.find?_cons, h0, hram, le_refl, decide_true, Option.none_or]
  · next hge =>
    refine State.firstBadAddr_of_lt fun a ha => ?_
    simp only [State.indexAddrs, List.mem_map, List.mem_range] at ha
    obtain ⟨k, hk, rfl⟩ := ha
    simp only [ramSize]; omega

/-- The guard lets the instruction complete where no policy refuses its addresses (R73). -/
theorem State.guardAddrs_completes {s : State} {n : Nat} (h : s.config.addrOob = .wrap ∨ s.i.toNat + n ≤ 4096)
    (completed : State) : s.guardAddrs (s.indexAddrs n) completed = completed := by
  have : s.firstBadAddr (s.indexAddrs n) = none := by
    cases hp : s.config.addrOob with
    | wrap => exact State.firstBadAddr_wrap hp _
    | fault =>
      have := h.resolve_left (by simp [hp])
      rw [State.firstBadAddr_indexAddrs hp, if_neg (by omega)]
  simp [State.guardAddrs, this]

/-- The guard halts the instruction with the first refused address, 4096, under `fault` (R305). -/
theorem State.guardAddrs_halts {s : State} {n : Nat} (hp : s.config.addrOob = .fault) (h : 4096 < s.i.toNat + n)
    (completed : State) :
    s.guardAddrs (s.indexAddrs n) completed = s.raiseHalt (.addrRange s.instrAddr 4096) := by
  simp [State.guardAddrs, State.firstBadAddr_indexAddrs hp, h]

/-- A refused address is one of the addresses, past 0xFFF, and the policy is `fault` (R73). -/
theorem State.firstBadAddr_eq_some {s : State} {addrs : List Nat} {bad : Nat} (h : s.firstBadAddr addrs = some bad) :
    s.config.addrOob = .fault ∧ bad ∈ addrs ∧ ramSize ≤ bad := by
  cases hp : s.config.addrOob with
  | wrap => simp [State.firstBadAddr, hp] at h
  | fault =>
    simp only [State.firstBadAddr, hp] at h
    have hb := List.find?_some h
    exact ⟨rfl, List.mem_of_find?_eq_some h, of_decide_eq_true hb⟩

/-- The guard either raises the halt of a refused address in the state before the instruction or lets it complete. -/
theorem State.guardAddrs_cases (s : State) (addrs : List Nat) (completed : State) :
    (∃ bad, s.config.addrOob = .fault ∧ bad ∈ addrs ∧ ramSize ≤ bad ∧
      s.guardAddrs addrs completed = s.raiseHalt (.addrRange s.instrAddr bad)) ∨
    s.guardAddrs addrs completed = completed := by
  cases h : s.firstBadAddr addrs with
  | none => exact .inr (by simp only [State.guardAddrs, h])
  | some bad =>
    obtain ⟨hp, hm, hb⟩ := State.firstBadAddr_eq_some h
    exact .inl ⟨bad, hp, hm, hb, by simp only [State.guardAddrs, h]⟩

/-! ## The call stack -/

/-- Everything a push can do (R151). -/
theorem State.push?_cases (s : State) :
    (s.push? = none ∧ s.config.stackOob = .fault ∧ s.sp.val = 16) ∨
    ∃ t, s.push? = some t ∧ t = { s with stack := t.stack, sp := t.sp } ∧
      t.stack = s.stack.set (s.sp.val % 16) (s.pc.setWidth 16) (by omega) ∧
      (s.config.stackOob = .fault → s.sp.val < 16 ∧ t.sp.val = s.sp.val + 1) ∧
      (s.config.stackOob = .wrap → t.sp.val = (s.sp.val + 1) % 16) := by
  have hsp := s.sp.isLt
  cases hp : s.config.stackOob with
  | fault =>
    by_cases h : s.sp.val < 16
    · refine .inr ⟨_, by simp only [State.push?, hp, dif_pos h]; rfl, rfl, ?_, ?_, by simp⟩
      · simp [Nat.mod_eq_of_lt h]
      · simp [h]
    · exact .inl ⟨by simp [State.push?, hp, h], by simp, by omega⟩
  | wrap => exact .inr ⟨_, by simp only [State.push?, hp]; rfl, rfl, rfl, by simp, by simp⟩

/-- Everything a pop can do (R152). -/
theorem State.pop?_cases (s : State) :
    (s.pop? = none ∧ s.config.stackOob = .fault ∧ s.sp.val = 0) ∨
    ∃ t, s.pop? = some t ∧ t = { s with pc := t.pc, sp := t.sp } ∧
      t.pc = (s.stack[(s.sp.val + 15) % 16]'(by omega)).setWidth 12 ∧
      (s.config.stackOob = .fault → 0 < s.sp.val ∧ t.sp.val = s.sp.val - 1) ∧
      (s.config.stackOob = .wrap → t.sp.val = (s.sp.val + 15) % 16) := by
  have hsp := s.sp.isLt
  cases hp : s.config.stackOob with
  | fault =>
    by_cases h : 0 < s.sp.val
    · have e : s.sp.val - 1 = (s.sp.val + 15) % 16 := by omega
      refine .inr ⟨_, by simp only [State.pop?, hp, if_pos h]; rfl, rfl, ?_, ?_, by simp⟩
      · simp [e]
      · simp [h]
    · exact .inl ⟨by simp [State.pop?, hp, h], by simp, by omega⟩
  | wrap => exact .inr ⟨_, by simp only [State.pop?, hp]; rfl, rfl, rfl, by simp, by simp⟩

/-! ## Fetch -/

/-- Everything a fetch can do (R73, R76). -/
theorem State.fetchWord_cases (s : State) :
    (s.config.addrOob = .fault ∧ s.pc = 0xFFF#12 ∧ s.fetchWord = .error 4096) ∨
    s.fetchWord = .ok (s.readByte s.pc.toNat ++ s.readByte (s.pc.toNat + 1)) := by
  have hpc : s.pc.toNat < 4096 := s.pc.isLt
  by_cases h : s.config.addrOob = .fault ∧ s.pc = 0xFFF#12
  · refine .inl ⟨h.1, h.2, ?_⟩
    simp [State.fetchWord, State.firstBadAddr, h.1, h.2, ramSize]
  · right
    have : s.firstBadAddr [s.pc.toNat, s.pc.toNat + 1] = none := by
      cases hp : s.config.addrOob with
      | wrap => exact State.firstBadAddr_wrap hp _
      | fault =>
        have hne : s.pc.toNat ≠ 0xFFF := fun e => h ⟨hp, BitVec.eq_of_toNat_eq (by simpa using e)⟩
        refine State.firstBadAddr_of_lt fun a ha => ?_
        simp only [List.mem_cons, List.not_mem_nil, or_false] at ha
        simp only [ramSize]
        rcases ha with rfl | rfl <;> omega
    simp [State.fetchWord, this]

/-! ## Register blocks and HP48 bytes -/

theorem State.reg_loadBlock (s : State) (x k : Reg) :
    (s.loadBlock x).reg k = if k ≤ x then s.readByte (s.i.toNat + k.val) else s.reg k := by
  simp only [State.loadBlock, State.reg, Vector.getElem_ofFn]
  rfl

theorem State.loadBlock_eq (s : State) (x : Reg) : s.loadBlock x = { s with v := (s.loadBlock x).v } := rfl

theorem State.getElem_regBlock (s : State) (x : Reg) {k : Nat} (h : k < (s.regBlock x).length) :
    (s.regBlock x)[k] = s.reg ⟨k, by simp [State.regBlock] at h; omega⟩ := by
  simp [State.regBlock, State.reg]

@[simp] theorem State.length_regBlock (s : State) (x : Reg) : (s.regBlock x).length = x.val + 1 := by
  simp [State.regBlock]

/-- The post-increment changes I alone (R226). -/
theorem State.advanceIndex_eq (s : State) (x : Reg) :
    s.advanceIndex x = { s with i := if s.incIndex then s.i + BitVec.ofNat 12 (x.val + 1) else s.i } := by
  unfold State.advanceIndex
  split <;> simp_all [State.setIndex]

theorem State.incIndex_iff (s : State) :
    s.incIndex = true ↔ ¬ (s.altStoreLoad = true ∨ s.mode = .extended) := by
  simp [State.incIndex]

theorem State.hp48Last?_of_lt (s : State) {x : Reg} (h : x.val < 8) : s.hp48Last? x = some ⟨x.val, h⟩ := by
  simp [State.hp48Last?, h]

theorem State.hp48Last?_clamp {s : State} {x : Reg} (h : 8 ≤ x.val) (hp : s.config.hp48Oob = .clamp) :
    s.hp48Last? x = some 7 := by
  simp [State.hp48Last?, hp, Nat.not_lt.2 h]

theorem State.hp48Last?_fault {s : State} {x : Reg} (h : 8 ≤ x.val) (hp : s.config.hp48Oob = .fault) :
    s.hp48Last? x = none := by
  simp [State.hp48Last?, hp, Nat.not_lt.2 h]

/-- Everything the HP48 range check can do (R229, R230): the last register moved is X or, clamped, 7. -/
theorem State.hp48Last?_cases (s : State) (x : Reg) :
    (s.hp48Last? x = none ∧ s.config.hp48Oob = .fault ∧ 8 ≤ x.val) ∨
    ∃ n, s.hp48Last? x = some n ∧ n.val ≤ x.val := by
  by_cases h : x.val < 8
  · exact .inr ⟨_, s.hp48Last?_of_lt h, le_rfl⟩
  · cases hp : s.config.hp48Oob with
    | fault => exact .inl ⟨State.hp48Last?_fault (by omega) hp, rfl, by omega⟩
    | clamp => exact .inr ⟨_, State.hp48Last?_clamp (by omega) hp, show 7 ≤ x.val by omega⟩

/-! ## Keys -/

theorem State.keyIsDown_iff (s : State) (b : Byte) :
    s.keyIsDown b = true ↔ ∃ k : Fin 16, k.val = b.toNat ∧ s.keyCur[k.val] = .down := by
  unfold State.keyIsDown
  split
  · next h =>
    simp only [decide_eq_true_eq]
    constructor
    · exact fun e => ⟨⟨b.toNat, h⟩, rfl, e⟩
    · rintro ⟨k, hk, e⟩
      simpa [← hk] using e
  · next h => simp only [Bool.false_eq_true, false_iff]; rintro ⟨k, hk, -⟩; omega

/-- The Legacy scan finds the lowest Released key (R273). -/
theorem State.firstReleased_eq_some (s : State) (k : Fin 16) (hk : s.keyCur[k.val] = .released)
    (hlow : ∀ j : Fin 16, j < k → s.keyCur[j.val] ≠ .released) : s.firstReleased = some k := by
  have h : s.firstReleased.isSome := by
    simp only [State.firstReleased, List.find?_isSome]
    exact ⟨k, List.mem_finRange k, by simpa using hk⟩
  obtain ⟨j, hj⟩ := Option.isSome_iff_exists.1 h
  rw [hj]
  have hjr : s.keyCur[j.val] = .released := by
    simpa using List.find?_some (show (List.finRange 16).find? _ = some j from hj)
  rcases lt_trichotomy j k with hlt | rfl | hgt
  · exact absurd hjr (hlow j hlt)
  · rfl
  · exfalso
    have hnot := List.find?_eq_some_iff_append.1 (show (List.finRange 16).find? _ = some j from hj)
    obtain ⟨-, as, bs, hab, has⟩ := hnot
    have hkmem : k ∈ as := by
      have hk' : k ∈ as ++ j :: bs := hab ▸ List.mem_finRange k
      have hsorted : (as ++ j :: bs).Pairwise (· < ·) := by
        rw [← hab]; exact List.pairwise_lt_finRange 16
      rcases List.mem_append.1 hk' with h | h
      · exact h
      · exfalso
        have hp := (List.pairwise_append.1 hsorted).2.1
        rcases List.mem_cons.1 h with rfl | h
        · exact lt_irrefl _ hgt
        · exact lt_asymm hgt ((List.pairwise_cons.1 hp).1 k h)
    have := has k hkmem
    simp [hk] at this

theorem State.firstReleased_eq_none (s : State) (h : ∀ k : Fin 16, s.keyCur[k.val] ≠ .released) :
    s.firstReleased = none := by
  simp only [State.firstReleased, List.find?_eq_none]
  intro k _
  simpa using h k

/-- The Extended scan finds the highest Down key, whatever it had found before (R273). -/
theorem State.lastDown_eq_some (s : State) (k : Fin 16) (hk : s.keyCur[k.val] = .down)
    (hhigh : ∀ j : Fin 16, k < j → s.keyCur[j.val] ≠ .down) : s.lastDown = some k := by
  have key : ∀ (l : List (Fin 16)) (acc : Option (Fin 16)), l.Pairwise (· < ·) → k ∈ l →
      l.foldl (fun found j => if s.keyCur[j.val] = .down then some j else found) acc = some k := by
    intro l
    induction l with
    | nil => simp
    | cons j l ih =>
      intro acc hs hm
      obtain ⟨hj, hs'⟩ := List.pairwise_cons.1 hs
      by_cases hkl : k ∈ l
      · exact ih _ hs' hkl
      · obtain rfl : k = j := by simpa [hkl] using hm
        have hrest : ∀ (l : List (Fin 16)), (∀ j ∈ l, s.keyCur[j.val] ≠ .down) → ∀ acc,
            l.foldl (fun found j => if s.keyCur[j.val] = .down then some j else found) acc = acc := by
          intro l
          induction l with
          | nil => simp
          | cons a l ih2 =>
            intro hl acc
            rw [List.foldl_cons, if_neg (hl a (by simp))]
            exact ih2 (fun b hb => hl b (by simp [hb])) acc
        rw [List.foldl_cons, if_pos hk]
        exact hrest l (fun a ha => hhigh a (hj a ha)) _
  exact key _ none (List.pairwise_lt_finRange 16) (List.mem_finRange k)

theorem State.lastDown_eq_none (s : State) (h : ∀ k : Fin 16, s.keyCur[k.val] ≠ .down) : s.lastDown = none := by
  have key : ∀ l : List (Fin 16),
      l.foldl (fun found j => if s.keyCur[j.val] = .down then some j else found) none = none := by
    intro l
    induction l with
    | nil => rfl
    | cons a l ih => rw [List.foldl_cons, if_neg (h a)]; exact ih
  exact key _

/-! ## The tick -/

theorem decremented_toNat (b : Byte) : (decremented b).toNat = b.toNat - 1 := by
  unfold decremented
  split
  · next h =>
    have hb : b.toNat < 256 := b.isLt
    rw [BitVec.toNat_sub]
    simp only [BitVec.toNat_ofNat]
    omega
  · next h => omega

/-- Everything the timer step does (R320, R321). -/
theorem State.timerStep_eq (s : State) :
    s.timerStep = { s with
      dt := decremented s.dt, st := decremented s.st,
      events := s.events ++ (if s.st = 1#8 then [.stopSound] else []) } := by
  unfold State.timerStep
  split <;> simp_all [State.emit]

/-- Everything the stop sequence does (R357). -/
theorem State.stopSequence_eq (s : State) (cause : Option Halt) :
    s.stopSequence cause = { s with
      vb := VideoBuffer.clear, lifecycle := .stopped, inTick := false,
      events := s.events ++ (match cause with
        | some h => if h.isFatal then [.error h] else []
        | none => []) ++ [.frameReady VideoBuffer.clear, .stateChanged .stopped] } := by
  cases cause with
  | none => simp [State.stopSequence, State.emit, State.setVb]
  | some h => cases hf : h.isFatal <;> simp [State.stopSequence, State.emit, State.setVb, hf]

/-- Everything a receive can do: the oldest batch goes whole, in its order, behind the pending commands (R330). -/
theorem State.receive_eq (s : State) :
    s.receive = { s with commands := s.commands ++ s.arrivals.headD [], arrivals := s.arrivals.tail } := by
  cases h : s.arrivals with
  | nil =>
    simp only [State.receive, h, List.headD_nil, List.append_nil, List.tail_nil]
    rw [← h]
  | cons batch rest => simp only [State.receive, h, List.headD_cons, List.tail_cons]

theorem State.inputUpdate_keyCur (s : State) (k : Fin 16) :
    s.inputUpdate.keyCur[k.val] = updatedKey s.keyPrev[k.val] s.keyCur[k.val] := by
  simp [State.inputUpdate]

theorem State.inputUpdate_eq (s : State) :
    s.inputUpdate = { s with keyCur := s.inputUpdate.keyCur, keyPrev := s.inputUpdate.keyCur } := rfl

end Sys2Proof.Machine
end

