-- ==== Sys2Proof/Laws/Draw.lean ====
section
/-! SUPPORT. The cells that a sprite toggles: all inside the buffer, all different (R258 f), and which they are. -/

namespace Sys2Proof.Machine

/-- The pixel of the mode's grid that covers a cell (R253). -/
theorem mem_pixelCells (m : Mode) (px py : Nat) (c : VbCell) :
    c ∈ pixelCells m px py ↔ match m with
      | .legacy => px = c.1 / 2 ∧ py = c.2 / 2 ∧ c.1 < 128 ∧ c.2 < 64
      | .extended => px = c.1 ∧ py = c.2 ∧ c.1 < 128 ∧ c.2 < 64 := by
  obtain ⟨cx, cy⟩ := c
  cases m with
  | legacy =>
    simp only [pixelCells]
    split
    · simp only [List.mem_cons, Prod.mk.injEq, List.not_mem_nil, or_false]; omega
    · simp only [List.not_mem_nil, false_iff]; omega
  | extended =>
    simp only [pixelCells]
    split
    · simp only [List.mem_cons, Prod.mk.injEq, List.not_mem_nil, or_false]; omega
    · simp only [List.not_mem_nil, false_iff]; omega

theorem pixelCells_nodup (m : Mode) (px py : Nat) : (pixelCells m px py).Nodup := by
  cases m <;> simp only [pixelCells] <;> split <;> simp

/-- A cell belongs to one pixel. -/
theorem pixelCells_disjoint {m : Mode} {px py qx qy : Nat} {c : VbCell} (hp : c ∈ pixelCells m px py)
    (hq : c ∈ pixelCells m qx qy) : px = qx ∧ py = qy := by
  rw [mem_pixelCells] at hp hq
  cases m <;> exact ⟨hp.1.trans hq.1.symm, hp.2.1.trans hq.2.1.symm⟩

theorem State.mem_spritePixels (s : State) (n : BitVec 4) (p : VbCell) :
    p ∈ s.spritePixels n ↔ p.2 < spriteHeight n ∧ p.1 < s.spriteWidth n ∧ s.spriteBit n p.1 p.2 = true := by
  obtain ⟨c, r⟩ := p
  simp only [State.spritePixels, List.mem_flatMap, List.mem_range, List.mem_filterMap, Option.ite_none_right_eq_some,
    Option.some.injEq, Prod.mk.injEq]
  constructor
  · rintro ⟨r', hr, c', hc, hb, rfl, rfl⟩; exact ⟨hr, hc, hb⟩
  · rintro ⟨hr, hc, hb⟩; exact ⟨r, hr, c, hc, hb, rfl, rfl⟩

theorem State.spritePixels_nodup (s : State) (n : BitVec 4) : (s.spritePixels n).Nodup := by
  refine List.nodup_flatMap.2 ⟨fun r _ => ?_, ?_⟩
  · refine List.Nodup.filterMap ?_ List.nodup_range
    intro a b p ha hb
    simp only [Option.mem_def, Option.ite_none_right_eq_some, Option.some.injEq] at ha hb
    exact congrArg Prod.fst (ha.2.trans hb.2.symm)
  · refine List.Pairwise.imp ?_ List.nodup_range
    intro r r' hne p hp hp'
    simp only [List.mem_filterMap, Option.ite_none_right_eq_some, Option.some.injEq] at hp hp'
    obtain ⟨_, _, _, rfl⟩ := hp
    obtain ⟨_, _, _, h⟩ := hp'
    exact hne (congrArg Prod.snd h).symm

/-- The cells a draw toggles are all different (R258 f). -/
theorem State.spriteCells_nodup (s : State) (x y : Reg) (n : BitVec 4) : (s.spriteCells x y n).Nodup := by
  refine List.nodup_flatMap.2 ⟨fun p _ => pixelCells_nodup _ _ _, ?_⟩
  refine List.Pairwise.imp ?_ (s.spritePixels_nodup n)
  intro p q hne c hp hq
  obtain ⟨h1, h2⟩ := pixelCells_disjoint hp hq
  exact hne (Prod.ext (by omega) (by omega))

theorem State.spriteCells_inside (s : State) (x y : Reg) (n : BitVec 4) :
    ∀ c ∈ s.spriteCells x y n, c.1 < 128 ∧ c.2 < 64 := by
  intro c hc
  simp only [State.spriteCells, List.mem_flatMap] at hc
  obtain ⟨p, -, hc⟩ := hc
  rw [mem_pixelCells] at hc
  revert hc
  cases s.mode <;> exact fun h => h.2.2

/-- A bit of a row of one or two bytes is the bit of the byte that holds its column (R252). -/
theorem State.spriteBit_eq (s : State) (n : BitVec 4) (c r : Nat) (hc : c < s.spriteWidth n)
    (hr : r < spriteHeight n) :
    s.spriteBit n c r = SpriteHas s (s.wideSprite n) (spriteHeight n) c r := by
  cases hw : s.wideSprite n with
  | false =>
    have hc' : c < 8 := by simpa [State.spriteWidth, hw] using hc
    simp [State.spriteBit, SpriteHas, State.spriteRow, State.spriteWidth, hw, hr, hc', BitVec.getLsbD]
  | true =>
    have hc' : c < 16 := by simpa [State.spriteWidth, hw] using hc
    have hlt : (s.readByte (s.i.toNat + 2 * r + 1)).toNat < 2 ^ 8 := (s.readByte _).isLt
    have e256 : (256 : Nat) = 2 ^ 8 := rfl
    simp only [State.spriteBit, State.spriteRow, State.spriteWidth, hw, if_true, SpriteHas, hr, decide_true,
      Bool.true_and, BitVec.getLsbD, hc']
    rw [e256, Nat.testBit_two_pow_mul_add _ hlt]
    by_cases h8 : c < 8
    · have h1 : ¬ 16 - 1 - c < 8 := by omega
      have h2 : 16 - 1 - c - 8 = 7 - c := by omega
      simp [h8, h1, h2]
    · have h1 : 16 - 1 - c < 8 := by omega
      have h2 : 16 - 1 - c = 15 - c := by omega
      simp only [h8, h1, if_true, if_false, h2]

/-- A sprite's 1 pixels are those its bytes have (R251, R252). -/
theorem State.mem_spritePixels_iff (s : State) (n : BitVec 4) (c r : Nat) :
    (c, r) ∈ s.spritePixels n ↔ SpriteHas s (s.wideSprite n) (spriteHeight n) c r = true := by
  rw [State.mem_spritePixels]
  constructor
  · rintro ⟨hr, hc, hb⟩
    rwa [← State.spriteBit_eq s n c r hc hr]
  · intro h
    have hr : r < spriteHeight n := by
      simp only [SpriteHas, Bool.and_eq_true, decide_eq_true_eq] at h; exact h.1
    have hc : c < s.spriteWidth n := by
      simp only [SpriteHas, Bool.and_eq_true, decide_eq_true_eq] at h
      cases hw : s.wideSprite n with
      | false =>
        simp only [hw, Bool.false_eq_true, if_false, Bool.and_eq_true, decide_eq_true_eq] at h
        simp only [State.spriteWidth, hw, Bool.false_eq_true, if_false]; exact h.2.1
      | true =>
        simp only [State.spriteWidth, hw, if_true]
        by_cases h8 : c < 8
        · omega
        · simp only [hw, if_true, h8, if_false, Bool.and_eq_true, decide_eq_true_eq] at h; exact h.2.1
    exact ⟨hr, hc, by rwa [State.spriteBit_eq s n c r hc hr]⟩

/-- The cells a draw toggles are those its sprite covers (R253, R255). -/
theorem State.mem_spriteCells_iff (s : State) (x y : Reg) (n : BitVec 4) {cx cy : Nat} (hx : cx < 128) (hy : cy < 64) :
    (cx, cy) ∈ s.spriteCells x y n ↔ DrawHits s x y n cx cy = true := by
  simp only [State.spriteCells, List.mem_flatMap, mem_pixelCells, DrawHits]
  cases hm : s.mode with
  | legacy =>
    have hw : s.wideSprite n = false := by simp [State.wideSprite, hm]
    simp only [spriteOrigin, Bool.and_eq_true, decide_eq_true_eq, hx, hy, and_true]
    have key := fun c r => s.mem_spritePixels_iff n c r
    simp only [hw] at key
    constructor
    · rintro ⟨⟨c, r⟩, hp, h1, h2⟩
      have e1 : cx / 2 - (s.reg x).toNat % 64 = c := by omega
      have e2 : cy / 2 - (s.reg y).toNat % 32 = r := by omega
      exact ⟨⟨by omega, by omega⟩, by rw [e1, e2]; exact (key c r).1 hp⟩
    · rintro ⟨⟨h1, h2⟩, h3⟩
      exact ⟨_, (key _ _).2 h3, by simp only; omega, by simp only; omega⟩
  | extended =>
    have hw : s.wideSprite n = decide (n = 0#4) := by simp [State.wideSprite, hm]
    simp only [spriteOrigin, Bool.and_eq_true, decide_eq_true_eq, hx, hy, and_true]
    have key := fun c r => s.mem_spritePixels_iff n c r
    simp only [hw] at key
    constructor
    · rintro ⟨⟨c, r⟩, hp, h1, h2⟩
      have e1 : cx - (s.reg x).toNat % 128 = c := by omega
      have e2 : cy - (s.reg y).toNat % 64 = r := by omega
      exact ⟨⟨by omega, by omega⟩, by rw [e1, e2]; exact (key c r).1 hp⟩
    · rintro ⟨⟨h1, h2⟩, h3⟩
      exact ⟨_, (key _ _).2 h3, by simp only; omega, by simp only; omega⟩

end Sys2Proof.Machine
end

