-- ==== Sys2Proof/Laws/Encoding.lean ====
section
/-! SUPPORT. The fields of an encoded word: what each of the three layouts of R93 puts in each field of R91. -/

namespace Sys2Proof

/-! ## Layout n -/

@[simp] theorem opField_encodeCount (fixed : BitVec 12) (n : BitVec 4) : opField (encodeCount fixed n) = fixed.extractLsb' 8 4 := by
  apply BitVec.eq_of_getLsbD_eq
  intro k hk
  simp only [opField, encodeCount, BitVec.getLsbD_extractLsb', BitVec.getLsbD_append, hk]
  interval_cases k <;> simp

@[simp] theorem extractX_encodeCount (fixed : BitVec 12) (n : BitVec 4) : (encodeCount fixed n).extractLsb' 8 4 = fixed.extractLsb' 4 4 := by
  apply BitVec.eq_of_getLsbD_eq
  intro k hk
  simp only [encodeCount, BitVec.getLsbD_extractLsb', BitVec.getLsbD_append, hk]
  interval_cases k <;> simp

@[simp] theorem extractY_encodeCount (fixed : BitVec 12) (n : BitVec 4) : (encodeCount fixed n).extractLsb' 4 4 = fixed.extractLsb' 0 4 := by
  apply BitVec.eq_of_getLsbD_eq
  intro k hk
  simp only [encodeCount, BitVec.getLsbD_extractLsb', BitVec.getLsbD_append, hk]
  interval_cases k <;> simp

@[simp] theorem nField_encodeCount (fixed : BitVec 12) (n : BitVec 4) : nField (encodeCount fixed n) = n := by
  apply BitVec.eq_of_getLsbD_eq
  intro k hk
  simp only [nField, encodeCount, BitVec.getLsbD_extractLsb', BitVec.getLsbD_append, hk]
  interval_cases k <;> simp

/-! ## Layout nnn -/

@[simp] theorem opField_encodeAddress (op : BitVec 4) (nnn : Address) : opField (encodeAddress op nnn) = op := by
  apply BitVec.eq_of_getLsbD_eq
  intro k hk
  simp only [opField, encodeAddress, BitVec.getLsbD_extractLsb', BitVec.getLsbD_append, hk]
  interval_cases k <;> simp

@[simp] theorem nnnField_encodeAddress (op : BitVec 4) (nnn : Address) : nnnField (encodeAddress op nnn) = nnn := by
  apply BitVec.eq_of_getLsbD_eq
  intro k hk
  simp only [nnnField, encodeAddress, BitVec.getLsbD_extractLsb', BitVec.getLsbD_append, hk]
  interval_cases k <;> simp

@[simp] theorem extractX_encodeAddress (op : BitVec 4) (nnn : Address) : (encodeAddress op nnn).extractLsb' 8 4 = nnn.extractLsb' 8 4 := by
  apply BitVec.eq_of_getLsbD_eq
  intro k hk
  simp only [encodeAddress, BitVec.getLsbD_extractLsb', BitVec.getLsbD_append, hk]
  interval_cases k <;> simp

/-! ## Layouts xkk and x -/

@[simp] theorem opField_encodeByte (op : BitVec 4) (x : Reg) (kk : Byte) : opField (encodeByte op x kk) = op := by
  apply BitVec.eq_of_getLsbD_eq
  intro k hk
  simp only [opField, encodeByte, BitVec.getLsbD_extractLsb', BitVec.getLsbD_append, hk]
  interval_cases k <;> simp

@[simp] theorem extractX_encodeByte (op : BitVec 4) (x : Reg) (kk : Byte) : (encodeByte op x kk).extractLsb' 8 4 = BitVec.ofFin (w := 4) x := by
  apply BitVec.eq_of_getLsbD_eq
  intro k hk
  simp only [encodeByte, BitVec.getLsbD_extractLsb', BitVec.getLsbD_append, hk]
  interval_cases k <;> simp

@[simp] theorem xField_encodeByte (op : BitVec 4) (x : Reg) (kk : Byte) : xField (encodeByte op x kk) = x := by
  simp only [xField, extractX_encodeByte]

@[simp] theorem kkField_encodeByte (op : BitVec 4) (x : Reg) (kk : Byte) : kkField (encodeByte op x kk) = kk := by
  apply BitVec.eq_of_getLsbD_eq
  intro k hk
  simp only [kkField, encodeByte, BitVec.getLsbD_extractLsb', BitVec.getLsbD_append, hk]
  interval_cases k <;> simp

/-! ## Layouts xyn and xy -/

@[simp] theorem opField_encodeNibbles (op : BitVec 4) (x y : Reg) (n : BitVec 4) : opField (encodeNibbles op x y n) = op := by
  apply BitVec.eq_of_getLsbD_eq
  intro k hk
  simp only [opField, encodeNibbles, BitVec.getLsbD_extractLsb', BitVec.getLsbD_append, hk]
  interval_cases k <;> simp

@[simp] theorem extractX_encodeNibbles (op : BitVec 4) (x y : Reg) (n : BitVec 4) : (encodeNibbles op x y n).extractLsb' 8 4 = BitVec.ofFin (w := 4) x := by
  apply BitVec.eq_of_getLsbD_eq
  intro k hk
  simp only [encodeNibbles, BitVec.getLsbD_extractLsb', BitVec.getLsbD_append, hk]
  interval_cases k <;> simp

@[simp] theorem extractY_encodeNibbles (op : BitVec 4) (x y : Reg) (n : BitVec 4) : (encodeNibbles op x y n).extractLsb' 4 4 = BitVec.ofFin (w := 4) y := by
  apply BitVec.eq_of_getLsbD_eq
  intro k hk
  simp only [encodeNibbles, BitVec.getLsbD_extractLsb', BitVec.getLsbD_append, hk]
  interval_cases k <;> simp

@[simp] theorem xField_encodeNibbles (op : BitVec 4) (x y : Reg) (n : BitVec 4) : xField (encodeNibbles op x y n) = x := by
  simp only [xField, extractX_encodeNibbles]

@[simp] theorem yField_encodeNibbles (op : BitVec 4) (x y : Reg) (n : BitVec 4) : yField (encodeNibbles op x y n) = y := by
  simp only [yField, extractY_encodeNibbles]

@[simp] theorem nField_encodeNibbles (op : BitVec 4) (x y : Reg) (n : BitVec 4) : nField (encodeNibbles op x y n) = n := by
  apply BitVec.eq_of_getLsbD_eq
  intro k hk
  simp only [nField, encodeNibbles, BitVec.getLsbD_extractLsb', BitVec.getLsbD_append, hk]
  interval_cases k <;> simp

/-! ## A field as arithmetic on the word -/

theorem opField_eq_iff (w : Opcode) (c : BitVec 4) : opField w = c ↔ w.toNat / 4096 = c.toNat := by
  have := w.isLt
  rw [← BitVec.toNat_inj]; simp [opField, Nat.shiftRight_eq_div_pow]; omega

theorem nField_eq_iff (w : Opcode) (c : BitVec 4) : nField w = c ↔ w.toNat % 16 = c.toNat := by
  rw [← BitVec.toNat_inj]; simp [nField]

theorem kkField_eq_iff (w : Opcode) (c : BitVec 8) : kkField w = c ↔ w.toNat % 256 = c.toNat := by
  rw [← BitVec.toNat_inj]; simp [kkField]

theorem extractX_eq_iff (w : Opcode) (c : BitVec 4) : w.extractLsb' 8 4 = c ↔ w.toNat / 256 % 16 = c.toNat := by
  rw [← BitVec.toNat_inj]; simp [Nat.shiftRight_eq_div_pow]

theorem extractY_eq_iff (w : Opcode) (c : BitVec 4) : w.extractLsb' 4 4 = c ↔ w.toNat / 16 % 16 = c.toNat := by
  rw [← BitVec.toNat_inj]; simp [Nat.shiftRight_eq_div_pow]

/-! ## A word put together again from its fields -/

theorem ofFin_xField (w : Opcode) : BitVec.ofFin (w := 4) (xField w) = w.extractLsb' 8 4 := rfl

theorem ofFin_yField (w : Opcode) : BitVec.ofFin (w := 4) (yField w) = w.extractLsb' 4 4 := rfl

theorem encodeAddress_fields (w : Opcode) : encodeAddress (opField w) (nnnField w) = w := by
  apply BitVec.eq_of_getLsbD_eq
  intro k hk
  simp only [encodeAddress, opField, nnnField, BitVec.getLsbD_append]
  interval_cases k <;> simp

theorem encodeByte_fields (w : Opcode) : encodeByte (opField w) (xField w) (kkField w) = w := by
  apply BitVec.eq_of_getLsbD_eq
  intro k hk
  simp only [encodeByte, opField, ofFin_xField, kkField, BitVec.getLsbD_append]
  interval_cases k <;> simp

theorem encodeNibbles_fields (w : Opcode) : encodeNibbles (opField w) (xField w) (yField w) (nField w) = w := by
  apply BitVec.eq_of_getLsbD_eq
  intro k hk
  simp only [encodeNibbles, opField, ofFin_xField, ofFin_yField, nField, BitVec.getLsbD_append]
  interval_cases k <;> simp

/-- The word of two bytes and the two bytes of a word undo each other (R74). -/
theorem wordOfBytes_extract (w : Opcode) : wordOfBytes (w.extractLsb' 8 8) (w.extractLsb' 0 8) = w := by
  apply BitVec.eq_of_getLsbD_eq
  intro k hk
  simp only [wordOfBytes, BitVec.getLsbD_extractLsb', BitVec.getLsbD_append]
  interval_cases k <;> simp

end Sys2Proof
end

