-- ==== Sys2Proof/Laws/Frame.lean ====
section
/-! SUPPORT. The frames of the shared operations, in the terms of Safety. -/

namespace Sys2Proof.Machine

theorem keepsRegs_of_v {s t : State} (h : t.v = s.v) : KeepsRegsBut s t [] := fun r _ => State.reg_congr h r

theorem keepsRam_of_mem {s t : State} (hc : t.config = s.config) (hm : t.mem = s.mem) : KeepsRam s t :=
  fun a => State.readByte_congr hc hm a

theorem State.setReg_keepsRegsBut (s : State) (x : Reg) (b : Byte) : KeepsRegsBut s (s.setReg x b) [x] := by
  intro r hr
  have : r ≠ x := by simpa using hr
  simp [this]

theorem State.setReg_onlyRegs (s : State) (x : Reg) (b : Byte) : OnlyRegs s (s.setReg x b) :=
  ⟨rfl, keepsRam_of_mem rfl rfl⟩

theorem State.setResultAndFlag_keepsRegsBut (s : State) (x : Reg) (a b : Byte) :
    KeepsRegsBut s (s.setResultAndFlag x a b) [x, 15] := by
  intro r hr
  have : r ≠ x ∧ r ≠ 15 := by simpa using hr
  simp [this, vf]

theorem State.setResultAndFlag_onlyRegs (s : State) (x : Reg) (a b : Byte) :
    OnlyRegs s (s.setResultAndFlag x a b) := ⟨rfl, keepsRam_of_mem rfl rfl⟩

theorem State.setIndex_onlyIndex (s : State) (a : Address) : OnlyIndex s (s.setIndex a) :=
  ⟨rfl, keepsRegs_of_v rfl, keepsRam_of_mem rfl rfl⟩

theorem State.setPc_onlyPc (s : State) (a : Address) : OnlyPc s (s.setPc a) :=
  ⟨rfl, keepsRegs_of_v rfl, keepsRam_of_mem rfl rfl⟩

theorem State.skipIf_onlyPc (s : State) (b : Bool) : OnlyPc s (s.skipIf b) := by
  rw [State.skipIf_eq]
  exact ⟨rfl, keepsRegs_of_v rfl, keepsRam_of_mem rfl rfl⟩

theorem State.setVb_signalFrame_onlyVideo (s : State) (b : VideoBuffer) : OnlyVideo s (s.setVb b).signalFrame :=
  ⟨rfl, keepsRegs_of_v rfl, keepsRam_of_mem rfl rfl⟩

/-- The post-increment as arithmetic (R226). -/
theorem State.advanceIndex_i_toNat (s : State) (x : Reg) :
    (s.advanceIndex x).i.toNat = if s.altStoreLoad = true ∨ s.mode = .extended then s.i.toNat
      else (s.i.toNat + x.val + 1) % 4096 := by
  have := s.incIndex_iff
  have hx := x.isLt
  rw [State.advanceIndex_eq]
  by_cases h : s.altStoreLoad = true ∨ s.mode = .extended
  · simp only [if_pos h, if_neg (show ¬ s.incIndex = true by tauto)]
  · simp only [if_neg h, if_pos (show s.incIndex = true by tauto), BitVec.toNat_add, BitVec.toNat_ofNat]; omega

/-- How many bytes a sprite takes (R251). -/
theorem State.spriteBytes_eq (s : State) (n : BitVec 4) :
    s.spriteBytes n = if n = 0#4 then (if s.mode = .extended then 32 else 16) else n.toNat := by
  by_cases hn : n = 0#4 <;> by_cases hm : s.mode = .extended <;>
    simp [State.spriteBytes, State.wideSprite, spriteHeight, hn, hm]

/-- The digit that selects a glyph (R223, R224). -/
theorem and_0xF_toNat (v : Byte) : (v &&& 0xF#8).toNat = v.toNat % 16 := by
  rw [BitVec.toNat_and]; exact Nat.and_two_pow_sub_one_eq_mod _ 4

/-- The value that the shifts take (R192). -/
theorem State.shiftSource_eq (s : State) (x y : Reg) :
    s.shiftSource x y = if s.altShift = false ∧ s.mode = .legacy then s.reg y else s.reg x := by
  by_cases ha : s.altShift = false <;> by_cases hm : s.mode = .legacy <;>
    simp_all [State.shiftSource, State.shiftFromVy]

end Sys2Proof.Machine
end

