-- ==== Sys2Proof/Laws/PerInstr.lean ====
section
/-! SUPPORT. The family TableRow: the word of an instruction carries the fixed bits of its row of spec/opcode_table.json (its `match` under its `mask`). -/

namespace Sys2Proof.Laws.TableRow

-- One thread: forty-four proofs at once would each reserve a stack.
set_option Elab.async false

/-- The `match` and the `mask` of an instruction's row. -/
def row : Instr → Opcode × Opcode
  | .cls => (0x00E0#16, 0xFFFF#16)
  | .ret => (0x00EE#16, 0xFFFF#16)
  | .scd _ => (0x00C0#16, 0xFFF0#16)
  | .scr => (0x00FB#16, 0xFFFF#16)
  | .scl => (0x00FC#16, 0xFFFF#16)
  | .exit => (0x00FD#16, 0xFFFF#16)
  | .low => (0x00FE#16, 0xFFFF#16)
  | .high => (0x00FF#16, 0xFFFF#16)
  | .sys _ => (0x0000#16, 0xF000#16)
  | .jp _ => (0x1000#16, 0xF000#16)
  | .call _ => (0x2000#16, 0xF000#16)
  | .seImm _ _ => (0x3000#16, 0xF000#16)
  | .sneImm _ _ => (0x4000#16, 0xF000#16)
  | .seReg _ _ => (0x5000#16, 0xF00F#16)
  | .ldImm _ _ => (0x6000#16, 0xF000#16)
  | .addImm _ _ => (0x7000#16, 0xF000#16)
  | .ldReg _ _ => (0x8000#16, 0xF00F#16)
  | .orReg _ _ => (0x8001#16, 0xF00F#16)
  | .andReg _ _ => (0x8002#16, 0xF00F#16)
  | .xorReg _ _ => (0x8003#16, 0xF00F#16)
  | .addReg _ _ => (0x8004#16, 0xF00F#16)
  | .subReg _ _ => (0x8005#16, 0xF00F#16)
  | .shrReg _ _ => (0x8006#16, 0xF00F#16)
  | .subnReg _ _ => (0x8007#16, 0xF00F#16)
  | .shlReg _ _ => (0x800E#16, 0xF00F#16)
  | .sneReg _ _ => (0x9000#16, 0xF00F#16)
  | .ldIndex _ => (0xA000#16, 0xF000#16)
  | .jpV0 _ => (0xB000#16, 0xF000#16)
  | .rnd _ _ => (0xC000#16, 0xF000#16)
  | .drw _ _ _ => (0xD000#16, 0xF000#16)
  | .skp _ => (0xE09E#16, 0xF0FF#16)
  | .sknp _ => (0xE0A1#16, 0xF0FF#16)
  | .ldFromDelay _ => (0xF007#16, 0xF0FF#16)
  | .waitKey _ => (0xF00A#16, 0xF0FF#16)
  | .ldDelay _ => (0xF015#16, 0xF0FF#16)
  | .ldSound _ => (0xF018#16, 0xF0FF#16)
  | .addIndex _ => (0xF01E#16, 0xF0FF#16)
  | .ldFont _ => (0xF029#16, 0xF0FF#16)
  | .ldLargeFont _ => (0xF030#16, 0xF0FF#16)
  | .storeBcd _ => (0xF033#16, 0xF0FF#16)
  | .storeRegs _ => (0xF055#16, 0xF0FF#16)
  | .loadRegs _ => (0xF065#16, 0xF0FF#16)
  | .saveFlags _ => (0xF075#16, 0xF0FF#16)
  | .loadFlags _ => (0xF085#16, 0xF0FF#16)

/-- Under the mask of its row the word is the row's match. -/
def Statement (i : Instr) : Prop := encode i &&& (row i).2 = (row i).1

/-- Two words are equal when their 16 bits are. -/
theorem opcode_ext {v w : Opcode} (h : ∀ k, k < 16 → v.getLsbD k = w.getLsbD k) : v = w :=
  BitVec.eq_of_getLsbD_eq h

theorem cls : Statement .cls := rfl

theorem ret : Statement .ret := rfl

theorem scd (n : BitVec 4) : Statement (.scd n) := opcode_ext fun k hk => by
  simp only [encode, row, encodeCount, BitVec.getLsbD_and, BitVec.getLsbD_append]
  interval_cases k <;> simp

theorem scr : Statement .scr := rfl

theorem scl : Statement .scl := rfl

theorem exit : Statement .exit := rfl

theorem low : Statement .low := rfl

theorem high : Statement .high := rfl

theorem sys (nnn : Address) : Statement (.sys nnn) := opcode_ext fun k hk => by
  simp only [encode, row, encodeAddress, BitVec.getLsbD_and, BitVec.getLsbD_append]
  interval_cases k <;> simp

theorem jp (nnn : Address) : Statement (.jp nnn) := opcode_ext fun k hk => by
  simp only [encode, row, encodeAddress, BitVec.getLsbD_and, BitVec.getLsbD_append]
  interval_cases k <;> simp

theorem call (nnn : Address) : Statement (.call nnn) := opcode_ext fun k hk => by
  simp only [encode, row, encodeAddress, BitVec.getLsbD_and, BitVec.getLsbD_append]
  interval_cases k <;> simp

theorem seImm (x : Reg) (kk : Byte) : Statement (.seImm x kk) := opcode_ext fun k hk => by
  simp only [encode, row, encodeByte, BitVec.getLsbD_and, BitVec.getLsbD_append]
  interval_cases k <;> simp

theorem sneImm (x : Reg) (kk : Byte) : Statement (.sneImm x kk) := opcode_ext fun k hk => by
  simp only [encode, row, encodeByte, BitVec.getLsbD_and, BitVec.getLsbD_append]
  interval_cases k <;> simp

theorem seReg (x y : Reg) : Statement (.seReg x y) := opcode_ext fun k hk => by
  simp only [encode, row, encodeNibbles, BitVec.getLsbD_and, BitVec.getLsbD_append]
  interval_cases k <;> simp

theorem ldImm (x : Reg) (kk : Byte) : Statement (.ldImm x kk) := opcode_ext fun k hk => by
  simp only [encode, row, encodeByte, BitVec.getLsbD_and, BitVec.getLsbD_append]
  interval_cases k <;> simp

theorem addImm (x : Reg) (kk : Byte) : Statement (.addImm x kk) := opcode_ext fun k hk => by
  simp only [encode, row, encodeByte, BitVec.getLsbD_and, BitVec.getLsbD_append]
  interval_cases k <;> simp

theorem ldReg (x y : Reg) : Statement (.ldReg x y) := opcode_ext fun k hk => by
  simp only [encode, row, encodeNibbles, BitVec.getLsbD_and, BitVec.getLsbD_append]
  interval_cases k <;> simp

theorem orReg (x y : Reg) : Statement (.orReg x y) := opcode_ext fun k hk => by
  simp only [encode, row, encodeNibbles, BitVec.getLsbD_and, BitVec.getLsbD_append]
  interval_cases k <;> simp

theorem andReg (x y : Reg) : Statement (.andReg x y) := opcode_ext fun k hk => by
  simp only [encode, row, encodeNibbles, BitVec.getLsbD_and, BitVec.getLsbD_append]
  interval_cases k <;> simp

theorem xorReg (x y : Reg) : Statement (.xorReg x y) := opcode_ext fun k hk => by
  simp only [encode, row, encodeNibbles, BitVec.getLsbD_and, BitVec.getLsbD_append]
  interval_cases k <;> simp

theorem addReg (x y : Reg) : Statement (.addReg x y) := opcode_ext fun k hk => by
  simp only [encode, row, encodeNibbles, BitVec.getLsbD_and, BitVec.getLsbD_append]
  interval_cases k <;> simp

theorem subReg (x y : Reg) : Statement (.subReg x y) := opcode_ext fun k hk => by
  simp only [encode, row, encodeNibbles, BitVec.getLsbD_and, BitVec.getLsbD_append]
  interval_cases k <;> simp

theorem shrReg (x y : Reg) : Statement (.shrReg x y) := opcode_ext fun k hk => by
  simp only [encode, row, encodeNibbles, BitVec.getLsbD_and, BitVec.getLsbD_append]
  interval_cases k <;> simp

theorem subnReg (x y : Reg) : Statement (.subnReg x y) := opcode_ext fun k hk => by
  simp only [encode, row, encodeNibbles, BitVec.getLsbD_and, BitVec.getLsbD_append]
  interval_cases k <;> simp

theorem shlReg (x y : Reg) : Statement (.shlReg x y) := opcode_ext fun k hk => by
  simp only [encode, row, encodeNibbles, BitVec.getLsbD_and, BitVec.getLsbD_append]
  interval_cases k <;> simp

theorem sneReg (x y : Reg) : Statement (.sneReg x y) := opcode_ext fun k hk => by
  simp only [encode, row, encodeNibbles, BitVec.getLsbD_and, BitVec.getLsbD_append]
  interval_cases k <;> simp

theorem ldIndex (nnn : Address) : Statement (.ldIndex nnn) := opcode_ext fun k hk => by
  simp only [encode, row, encodeAddress, BitVec.getLsbD_and, BitVec.getLsbD_append]
  interval_cases k <;> simp

theorem jpV0 (nnn : Address) : Statement (.jpV0 nnn) := opcode_ext fun k hk => by
  simp only [encode, row, encodeAddress, BitVec.getLsbD_and, BitVec.getLsbD_append]
  interval_cases k <;> simp

theorem rnd (x : Reg) (kk : Byte) : Statement (.rnd x kk) := opcode_ext fun k hk => by
  simp only [encode, row, encodeByte, BitVec.getLsbD_and, BitVec.getLsbD_append]
  interval_cases k <;> simp

theorem drw (x y : Reg) (n : BitVec 4) : Statement (.drw x y n) := opcode_ext fun k hk => by
  simp only [encode, row, encodeNibbles, BitVec.getLsbD_and, BitVec.getLsbD_append]
  interval_cases k <;> simp

theorem skp (x : Reg) : Statement (.skp x) := opcode_ext fun k hk => by
  simp only [encode, row, encodeByte, BitVec.getLsbD_and, BitVec.getLsbD_append]
  interval_cases k <;> simp

theorem sknp (x : Reg) : Statement (.sknp x) := opcode_ext fun k hk => by
  simp only [encode, row, encodeByte, BitVec.getLsbD_and, BitVec.getLsbD_append]
  interval_cases k <;> simp

theorem ldFromDelay (x : Reg) : Statement (.ldFromDelay x) := opcode_ext fun k hk => by
  simp only [encode, row, encodeByte, BitVec.getLsbD_and, BitVec.getLsbD_append]
  interval_cases k <;> simp

theorem waitKey (x : Reg) : Statement (.waitKey x) := opcode_ext fun k hk => by
  simp only [encode, row, encodeByte, BitVec.getLsbD_and, BitVec.getLsbD_append]
  interval_cases k <;> simp

theorem ldDelay (x : Reg) : Statement (.ldDelay x) := opcode_ext fun k hk => by
  simp only [encode, row, encodeByte, BitVec.getLsbD_and, BitVec.getLsbD_append]
  interval_cases k <;> simp

theorem ldSound (x : Reg) : Statement (.ldSound x) := opcode_ext fun k hk => by
  simp only [encode, row, encodeByte, BitVec.getLsbD_and, BitVec.getLsbD_append]
  interval_cases k <;> simp

theorem addIndex (x : Reg) : Statement (.addIndex x) := opcode_ext fun k hk => by
  simp only [encode, row, encodeByte, BitVec.getLsbD_and, BitVec.getLsbD_append]
  interval_cases k <;> simp

theorem ldFont (x : Reg) : Statement (.ldFont x) := opcode_ext fun k hk => by
  simp only [encode, row, encodeByte, BitVec.getLsbD_and, BitVec.getLsbD_append]
  interval_cases k <;> simp

theorem ldLargeFont (x : Reg) : Statement (.ldLargeFont x) := opcode_ext fun k hk => by
  simp only [encode, row, encodeByte, BitVec.getLsbD_and, BitVec.getLsbD_append]
  interval_cases k <;> simp

theorem storeBcd (x : Reg) : Statement (.storeBcd x) := opcode_ext fun k hk => by
  simp only [encode, row, encodeByte, BitVec.getLsbD_and, BitVec.getLsbD_append]
  interval_cases k <;> simp

theorem storeRegs (x : Reg) : Statement (.storeRegs x) := opcode_ext fun k hk => by
  simp only [encode, row, encodeByte, BitVec.getLsbD_and, BitVec.getLsbD_append]
  interval_cases k <;> simp

theorem loadRegs (x : Reg) : Statement (.loadRegs x) := opcode_ext fun k hk => by
  simp only [encode, row, encodeByte, BitVec.getLsbD_and, BitVec.getLsbD_append]
  interval_cases k <;> simp

theorem saveFlags (x : Reg) : Statement (.saveFlags x) := opcode_ext fun k hk => by
  simp only [encode, row, encodeByte, BitVec.getLsbD_and, BitVec.getLsbD_append]
  interval_cases k <;> simp

theorem loadFlags (x : Reg) : Statement (.loadFlags x) := opcode_ext fun k hk => by
  simp only [encode, row, encodeByte, BitVec.getLsbD_and, BitVec.getLsbD_append]
  interval_cases k <;> simp

end Sys2Proof.Laws.TableRow
end

