-- ==== Sys2Proof/Laws/Step.lean ====
section
/-! SUPPORT. What a step is in each phase of the machine: inside a tick, between ticks, while a ROM is loaded, while stopped. -/

namespace Sys2Proof.Machine

/-- Inside a tick a step is one instruction and what follows it. -/
theorem step_in_tick {s : State} (ht : s.inTick = true) (hl : s.lifecycle = .running) (hc : s.stepCount < 1024) :
    step s = match s.instruction with
      | .next t => .next t.afterInstr
      | .fault r => .fault r
      | .refused r => .refused r := by
  have hstep : step s = s.tickStep := by simp only [step, State.cycle, ht, hl]
  rw [hstep]
  exact if_pos hc

/-- The word at PC is an instruction: it is executed with PC advanced. -/
theorem State.instruction_of_decode {s : State} {w : Opcode} {i : Instr} (hf : s.fetchWord = .ok w)
    (hd : decodeWord w = .ok i) : s.instruction = exec i s.advancePc := by
  simp only [State.instruction, hf, hd]

/-- The word at PC is no instruction: the halt that names it. -/
theorem State.instruction_of_unknown {s : State} {w : Opcode} {e : DecodeError} (hf : s.fetchWord = .ok w)
    (hd : decodeWord w = .error e) : s.instruction = .next (s.advancePc.unknownOpcodeHalt w) := by
  simp only [State.instruction, hf, hd]

/-- The address policy refuses the fetch: the halt that names the address. -/
theorem State.instruction_of_bad {s : State} {bad : Nat} (hf : s.fetchWord = .error bad) :
    s.instruction = .next (s.fetchHalt bad) := by
  simp only [State.instruction, hf]

theorem step_between {s : State} (ht : s.inTick = false) (hl : s.lifecycle = .running) :
    step s = .next s.betweenTicks := by simp only [step, State.cycle, ht, hl]

theorem step_loading {s : State} (ht : s.inTick = false) (hl : s.lifecycle = .loadingROM) :
    step s = .next s.finishLoad := by simp only [step, State.cycle, ht, hl]

theorem step_stopped {s : State} (ht : s.inTick = false) (hl : s.lifecycle = .stopped) :
    step s = .next s.idle := by simp only [step, State.cycle, ht, hl]

/-- With no command pending between ticks the next tick begins, and the next batch reaches the channel (R364). -/
theorem State.betweenTicks_of_none {s : State} (h : s.commands = []) :
    s.betweenTicks = { s with
      inTick := true, haltForRender := false, stepCount := 0,
      commands := s.arrivals.headD [], arrivals := s.arrivals.tail } := by
  simp [State.betweenTicks, h, State.receive_eq, State.beginTick]

/-- With no command pending while Stopped the next batch reaches the channel and nothing else happens (R350). -/
theorem State.idle_of_none {s : State} (h : s.commands = []) :
    s.idle = { s with commands := s.arrivals.headD [], arrivals := s.arrivals.tail } := by
  simp [State.idle, h, State.receive_eq]

theorem VideoBuffer.payload_clear : VideoBuffer.payload VideoBuffer.clear = List.replicate 8192 0#8 := by
  simp only [VideoBuffer.payload, VideoBuffer.getPixel_clear, Bool.false_eq_true, if_false, List.map_const',
    List.length_range]

/-- What follows a halt is the stop sequence (R361). -/
theorem State.afterInstr_halted {t : State} (h : t.stopReq = true) : t.afterInstr = t.stopSequence t.halt := by
  simp only [State.afterInstr, h, if_true]

/-- What follows an instruction that ends the tick (R361, R362). -/
theorem State.afterInstr_last {t : State} (h : t.stopReq = false)
    (hc : t.haltForRender = true ∨ 1024 ≤ t.stepCount + 1) :
    t.afterInstr = State.endTick { t.inputUpdate with stepCount := t.stepCount + 1 } := by
  have : (t.haltForRender || decide (instrPerTick ≤ t.stepCount + 1)) = true := by simpa [instrPerTick] using hc
  simp only [State.afterInstr, h, this, if_true, Bool.false_eq_true, if_false]

/-- What follows an instruction after which the tick goes on (R361). -/
theorem State.afterInstr_more {t : State} (h : t.stopReq = false)
    (hc : ¬ (t.haltForRender = true ∨ 1024 ≤ t.stepCount + 1)) :
    t.afterInstr = { t.inputUpdate with stepCount := t.stepCount + 1 } := by
  have : (t.haltForRender || decide (instrPerTick ≤ t.stepCount + 1)) = false := by
    rw [Bool.eq_false_iff]; simpa [instrPerTick] using hc
  simp only [State.afterInstr, h, this, Bool.false_eq_true, if_false]

end Sys2Proof.Machine
end

