-- ==== Sys2Proof/Tests/Slice0.lean ====
section
/-! SUPPORT. The model's own tests. Decoding is tested on words written out from spec/30_encoding.md R93; a step is tested on the vectors of spec/95_test_vectors.md, named there and here by their ids; and for every statement with hypotheses a witness meets all of them. -/

namespace Sys2Proof.Tests

set_option Elab.async false

open Sys2Proof Sys2Proof.Machine

/-! ## Well-formedness: the one check, and terms it refuses -/

theorem test_sys_with_x_zero_is_ill_formed : (Instr.sys 0x0FF#12).wellFormed = false := by decide

theorem test_sys_zero_is_ill_formed : (Instr.sys 0x000#12).wellFormed = false := by decide

theorem test_sys_with_x_one_is_well_formed : (Instr.sys 0x100#12).wellFormed = true := by decide

/-! ## Decoding: every constructor from a word written bit by bit -/

theorem test_decode_system :
    decodeWord 0b0000000011100000#16 = .ok .cls ∧
    decodeWord 0b0000000011101110#16 = .ok .ret ∧
    decodeWord 0b0000000011000101#16 = .ok (.scd 5#4) ∧
    decodeWord 0b0000000011111011#16 = .ok .scr ∧
    decodeWord 0b0000000011111100#16 = .ok .scl ∧
    decodeWord 0b0000000011111101#16 = .ok .exit ∧
    decodeWord 0b0000000011111110#16 = .ok .low ∧
    decodeWord 0b0000000011111111#16 = .ok .high ∧
    decodeWord 0b0000101010111100#16 = .ok (.sys 0xABC#12) := by decide

theorem test_decode_control_flow :
    decodeWord 0b0001001000110100#16 = .ok (.jp 0x234#12) ∧
    decodeWord 0b0010001101000101#16 = .ok (.call 0x345#12) ∧
    decodeWord 0b0011010110100110#16 = .ok (.seImm 5 0xA6#8) ∧
    decodeWord 0b0100011010010111#16 = .ok (.sneImm 6 0x97#8) ∧
    decodeWord 0b0101000100100000#16 = .ok (.seReg 1 2) ∧
    decodeWord 0b1001110000110000#16 = .ok (.sneReg 12 3) ∧
    decodeWord 0b1011111011011100#16 = .ok (.jpV0 0xEDC#12) := by decide

theorem test_decode_alu :
    decodeWord 0b0110101000111100#16 = .ok (.ldImm 10 0x3C#8) ∧
    decodeWord 0b0111101100000001#16 = .ok (.addImm 11 0x01#8) ∧
    decodeWord 0b1000000100100000#16 = .ok (.ldReg 1 2) ∧
    decodeWord 0b1000001101000001#16 = .ok (.orReg 3 4) ∧
    decodeWord 0b1000010101100010#16 = .ok (.andReg 5 6) ∧
    decodeWord 0b1000011110000011#16 = .ok (.xorReg 7 8) ∧
    decodeWord 0b1000100110100100#16 = .ok (.addReg 9 10) ∧
    decodeWord 0b1000101111000101#16 = .ok (.subReg 11 12) ∧
    decodeWord 0b1000110111100110#16 = .ok (.shrReg 13 14) ∧
    decodeWord 0b1000111100000111#16 = .ok (.subnReg 15 0) ∧
    decodeWord 0b1000001000011110#16 = .ok (.shlReg 2 1) ∧
    decodeWord 0b1100010000001111#16 = .ok (.rnd 4 0x0F#8) := by decide

theorem test_decode_index_and_memory :
    decodeWord 0b1010001011110000#16 = .ok (.ldIndex 0x2F0#12) ∧
    decodeWord 0b1111001000011110#16 = .ok (.addIndex 2) ∧
    decodeWord 0b1111010000101001#16 = .ok (.ldFont 4) ∧
    decodeWord 0b1111010100110000#16 = .ok (.ldLargeFont 5) ∧
    decodeWord 0b1111011000110011#16 = .ok (.storeBcd 6) ∧
    decodeWord 0b1111011101010101#16 = .ok (.storeRegs 7) ∧
    decodeWord 0b1111100001100101#16 = .ok (.loadRegs 8) ∧
    decodeWord 0b1111001101110101#16 = .ok (.saveFlags 3) ∧
    decodeWord 0b1111000110000101#16 = .ok (.loadFlags 1) := by decide

theorem test_decode_draw_keys_and_timers :
    decodeWord 0b1101000100101111#16 = .ok (.drw 1 2 15#4) ∧
    decodeWord 0b1110100110011110#16 = .ok (.skp 9) ∧
    decodeWord 0b1110101010100001#16 = .ok (.sknp 10) ∧
    decodeWord 0b1111101100000111#16 = .ok (.ldFromDelay 11) ∧
    decodeWord 0b1111110000001010#16 = .ok (.waitKey 12) ∧
    decodeWord 0b1111110100010101#16 = .ok (.ldDelay 13) ∧
    decodeWord 0b1111111000011000#16 = .ok (.ldSound 14) := by decide

theorem test_unknown_words_are_rejected :
    decodeWord 0x0000#16 = .error (.unknownOpcode 0x0000#16) ∧ decodeWord 0x00E1#16 = .error (.unknownOpcode 0x00E1#16) ∧
    decodeWord 0x5121#16 = .error (.unknownOpcode 0x5121#16) ∧ decodeWord 0x8128#16 = .error (.unknownOpcode 0x8128#16) ∧
    decodeWord 0x912F#16 = .error (.unknownOpcode 0x912F#16) ∧ decodeWord 0xE19F#16 = .error (.unknownOpcode 0xE19F#16) ∧
    decodeWord 0xF1FF#16 = .error (.unknownOpcode 0xF1FF#16) := by decide

theorem test_bytes_are_read_high_first :
    decodeBytes [0x12#8, 0x34#8, 0xFF#8] = .ok (.jp 0x234#12, [0xFF#8]) ∧ decodeBytes [0x12#8] = .error .truncated := by
  decide

theorem test_table_word : decodeTableWord 16 0xD015 = some (.drw 0 1 5#4) := by decide

/-! ## One step -/

/-- The state after one step that runs this word as the next instruction. -/
def after (w : Nat) (s : State) : Option State :=
  match step (s.withFetchWord 16 w) with
  | .next t => some t
  | .fault _ => none
  | .refused _ => none

/-- The reset state with registers set. -/
def withRegs (regs : List (Reg × Byte)) (s : State := State.reset) : State :=
  regs.foldl (fun t p => t.setReg p.1 p.2) s

/-- The reset state with bytes of RAM and I set. -/
def withRam (i : Address) (a : Nat) (bytes : List Byte) (s : State := State.reset) : State :=
  (s.storeBytes a bytes).setIndex i

/-- A buffer with these cells set. -/
def buffer (cells : List VbCell) : VideoBuffer :=
  cells.foldl (fun b c => VideoBuffer.togglePixel b c.1 c.2) VideoBuffer.clear

/-- The start buffer of the vectors D1 to D7. -/
def startBuffer : State := State.reset.setVb (buffer [(5, 0), (126, 0), (0, 63)])

/-- The reset state with the address policy `fault`. -/
def addrFault (s : State := State.reset) : State := { s with config := { Config.default with addrOob := .fault } }

theorem test_d1_scr :
    (after 0x00FB startBuffer).map (fun t => (decide (t.vb = buffer [(9, 0), (4, 63)]), t.events.length, t.haltForRender, t.inTick)) =
      some (true, 1, true, false) := by decide +kernel

theorem test_d2_scl :
    (after 0x00FC startBuffer).map (fun t => (decide (t.vb = buffer [(1, 0), (122, 0)]), t.events.length, t.haltForRender)) =
      some (true, 1, true) := by decide +kernel

theorem test_d3_scd :
    (after 0x00C3 startBuffer).map (fun t => (decide (t.vb = buffer [(5, 3), (126, 3)]), t.events.length, t.haltForRender)) =
      some (true, 1, true) := by decide +kernel

theorem test_d4_scd_zero :
    (after 0x00C0 startBuffer).map (fun t => (decide (t.vb = startBuffer.vb), t.events.length, t.haltForRender)) =
      some (true, 1, true) := by decide +kernel

theorem test_d5_cls :
    (after 0x00E0 startBuffer).map (fun t => (t.vb, t.events, t.pc)) =
      some (VideoBuffer.clear, [.frameReady VideoBuffer.clear], 0x202#12) := by decide +kernel

theorem test_d6_low :
    (after 0x00FE { startBuffer with mode := .extended }).map (fun t => (t.vb, t.events, t.mode, t.haltForRender, t.inTick)) =
      some (VideoBuffer.clear, [], .legacy, true, false) := by decide +kernel

theorem test_d7_high :
    (after 0x00FF startBuffer).map (fun t => (t.vb, t.events, t.mode, t.haltForRender)) =
      some (VideoBuffer.clear, [], .extended, true) := by decide +kernel

theorem test_d8_exit :
    (after 0x00FD startBuffer).map (fun t => (t.halt, t.events, t.lifecycle)) =
      some (some (.finish 0x200#12), [.frameReady VideoBuffer.clear, .stateChanged .stopped], .stopped) := by decide +kernel

theorem test_d9_sys :
    (after 0x0123 startBuffer).map (fun t => (t.pc, decide (t.vb = startBuffer.vb), t.events, t.inTick)) =
      some (0x202#12, true, [], true) := by decide +kernel

theorem test_d10_unknown :
    (after 0x0000 State.reset).map (fun t => (t.halt, t.events.head?)) =
      some (some (.unknownOpcode 0x0000#16 0x200#12 0), some (.error (.unknownOpcode 0x0000#16 0x200#12 0))) := by decide +kernel

theorem test_j1_jp :
    (after 0x1200 State.reset).map (fun t => t.pc) =
      some 0x200#12 := by decide +kernel

theorem test_j2_call_at_the_top :
    (after 0x2300 (State.reset.setPc 0xFFE#12)).map (fun t => (t.stack[0], t.sp, t.pc)) =
      some (0x000#16, 1, 0x300#12) := by decide +kernel

theorem test_j3_call_overflow :
    (after 0x2300 { State.reset with sp := 16 }).map (fun t => (t.halt, t.sp, t.lifecycle)) =
      some (some (.stackOverflow 0x200#12 16), 16, .stopped) := by decide +kernel

theorem test_j4_call_ring :
    (after 0x2300 { State.reset with sp := 15, config := { Config.default with stackOob := .wrap } }).map (fun t => (t.stack[15], t.sp, t.pc)) =
      some (0x202#16, 0, 0x300#12) := by decide +kernel

theorem test_j5_ret :
    (after 0x00EE { State.reset with sp := 1, stack := State.reset.stack.set 0 0x202#16 }).map (fun t => (t.sp, t.pc)) =
      some (0, 0x202#12) := by decide +kernel

theorem test_j6_ret_underflow :
    (after 0x00EE State.reset).map (fun t => (t.halt, t.sp)) =
      some (some (.stackUnderflow 0x200#12 0), 0) := by decide +kernel

theorem test_j7_ret_ring :
    (after 0x00EE { State.reset with stack := State.reset.stack.set 15 0x345#16, config := { Config.default with stackOob := .wrap } }).map (fun t => (t.sp, t.pc)) =
      some (15, 0x345#12) := by decide +kernel

theorem test_j8_se_imm_skips :
    (after 0x3105 (withRegs [(1, 0x05#8)])).map (fun t => t.pc) =
      some 0x204#12 := by decide +kernel

theorem test_j18_se_imm_wraps :
    (after 0x3000 (State.reset.setPc 0xFFE#12)).map (fun t => t.pc) =
      some 0x002#12 := by decide +kernel

theorem test_j10_sne_imm_goes_on :
    (after 0x4105 (withRegs [(1, 0x05#8)])).map (fun t => t.pc) =
      some 0x202#12 := by decide +kernel

theorem test_j11_sne_imm_skips :
    (after 0x4105 (withRegs [(1, 0x06#8)])).map (fun t => t.pc) =
      some 0x204#12 := by decide +kernel

theorem test_j12_se_reg :
    (after 0x5120 (withRegs [(1, 0x03#8), (2, 0x03#8)])).map (fun t => t.pc) =
      some 0x204#12 := by decide +kernel

theorem test_j14_sne_reg :
    (after 0x9120 (withRegs [(1, 0x03#8), (2, 0x04#8)])).map (fun t => t.pc) =
      some 0x204#12 := by decide +kernel

theorem test_j16_jp_v0_wraps :
    (after 0xBFFF (withRegs [(0, 0x02#8)])).map (fun t => t.pc) =
      some 0x001#12 := by decide +kernel

theorem test_j17_jp_v0 :
    (after 0xB300 (withRegs [(0, 0x10#8)])).map (fun t => t.pc) =
      some 0x310#12 := by decide +kernel

theorem test_w1_ld_imm :
    (after 0x6A3C (withRegs [(10, 0x99#8)])).map (fun t => (t.reg 10, t.reg 15)) =
      some (0x3C#8, 0x00#8) := by decide +kernel

theorem test_a22_add_imm_sets_no_flag :
    (after 0x7002 (withRegs [(0, 0xFF#8)])).map (fun t => (t.reg 0, t.reg 15)) =
      some (0x01#8, 0x00#8) := by decide +kernel

theorem test_a21_ld_reg :
    (after 0x8120 (withRegs [(2, 0x55#8)])).map (fun t => (t.reg 1, t.reg 15)) =
      some (0x55#8, 0x00#8) := by decide +kernel

theorem test_a19_or :
    (after 0x8121 (withRegs [(1, 0x0F#8), (2, 0xF0#8), (15, 0x05#8)])).map (fun t => (t.reg 1, t.reg 15)) =
      some (0xFF#8, 0x05#8) := by decide +kernel

theorem test_a20_and :
    (after 0x8122 (withRegs [(1, 0x3C#8), (2, 0x0F#8)])).map (fun t => (t.reg 1, t.reg 15)) =
      some (0x0C#8, 0x00#8) := by decide +kernel

theorem test_a18_xor :
    (after 0x8123 (withRegs [(1, 0x3C#8), (2, 0x0F#8), (15, 0x07#8)])).map (fun t => (t.reg 1, t.reg 15)) =
      some (0x33#8, 0x07#8) := by decide +kernel

theorem test_a1_add_carries :
    (after 0x8124 (withRegs [(1, 0xFF#8), (2, 0x01#8)])).map (fun t => (t.reg 1, t.reg 15)) =
      some (0x00#8, 0x01#8) := by decide +kernel

theorem test_a3_add_into_vf :
    (after 0x8F14 (withRegs [(15, 0xFF#8), (1, 0x02#8)])).map (fun t => t.reg 15) =
      some 0x01#8 := by decide +kernel

theorem test_a5_sub_borrows :
    (after 0x8125 (withRegs [(1, 0x05#8), (2, 0x07#8)])).map (fun t => (t.reg 1, t.reg 15)) =
      some (0xFE#8, 0x00#8) := by decide +kernel

theorem test_a6_sub_equal :
    (after 0x8125 (withRegs [(1, 0x07#8), (2, 0x07#8)])).map (fun t => (t.reg 1, t.reg 15)) =
      some (0x00#8, 0x01#8) := by decide +kernel

theorem test_a11_shr_from_vy :
    (after 0x8126 (withRegs [(1, 0x05#8), (2, 0x03#8)])).map (fun t => (t.reg 1, t.reg 15)) =
      some (0x01#8, 0x01#8) := by decide +kernel

theorem test_a12_shr_in_place :
    (after 0x8126 (withRegs [(1, 0x05#8), (2, 0x03#8)] { State.reset with altShift := true })).map (fun t => (t.reg 1, t.reg 15)) =
      some (0x02#8, 0x01#8) := by decide +kernel

theorem test_a8_subn :
    (after 0x8127 (withRegs [(1, 0x05#8), (2, 0x07#8)])).map (fun t => (t.reg 1, t.reg 15)) =
      some (0x02#8, 0x01#8) := by decide +kernel

theorem test_a9_subn_borrows :
    (after 0x8127 (withRegs [(1, 0x07#8), (2, 0x05#8)])).map (fun t => (t.reg 1, t.reg 15)) =
      some (0xFE#8, 0x00#8) := by decide +kernel

theorem test_a14_shl_in_place :
    (after 0x812E (withRegs [(1, 0x05#8), (2, 0x81#8)] { State.reset with mode := .extended })).map (fun t => (t.reg 1, t.reg 15)) =
      some (0x0A#8, 0x00#8) := by decide +kernel

theorem test_a15_shl_into_vf :
    (after 0x8F1E (withRegs [(1, 0x81#8), (15, 0x00#8)])).map (fun t => t.reg 15) =
      some 0x01#8 := by decide +kernel

theorem test_a24_rnd_with_mask_zero :
    (after 0xC300 (withRegs [(3, 0x55#8)])).map (fun t => (t.draws, t.pc)) = some (1, 0x202#12) := by decide +kernel

/-- The draw itself is open, so only what the mask leaves of it can be tested. -/
theorem test_rnd_mask (s : State) : ∃ t, exec (.rnd 3 0x0F#8) s = .next t ∧ t.reg 3 &&& 0xF0#8 = 0#8 := by
  refine ⟨_, rfl, ?_⟩
  have : ∀ t : State, t.v = (s.setReg 3 (Config.randomByte s.draws &&& 0x0F#8)).v →
      t.reg 3 &&& 0xF0#8 = 0#8 := by
    intro t h
    rw [State.reg_congr h, State.reg_setReg, if_pos rfl, BitVec.and_assoc]
    exact BitVec.and_zero
  exact this _ rfl

theorem test_m1_ld_index :
    (after 0xA2F0 State.reset).map (fun t => t.i) =
      some 0x2F0#12 := by decide +kernel

theorem test_m2_add_index_wraps :
    (after 0xF21E ((withRegs [(2, 0x01#8)]).setIndex 0xFFF#12)).map (fun t => (t.i, t.reg 15)) =
      some (0x000#12, 0x00#8) := by decide +kernel

theorem test_m4_ld_font :
    (after 0xF429 (withRegs [(4, 0x1A#8)])).map (fun t => t.i) =
      some 0x032#12 := by decide +kernel

theorem test_m6_ld_large_font :
    (after 0xF430 (withRegs [(4, 0x0F#8)])).map (fun t => t.i) =
      some 0x0E6#12 := by decide +kernel

theorem test_m7_bcd :
    (after 0xF033 ((withRegs [(0, 0xFF#8)]).setIndex 0x300#12)).map (fun t => ([0x300, 0x301, 0x302].map t.readByte, t.i)) =
      some ([0x02#8, 0x05#8, 0x05#8], 0x300#12) := by decide +kernel

theorem test_m9_bcd_wraps :
    (after 0xF133 ((withRegs [(1, 0x7B#8)]).setIndex 0xFFF#12)).map (fun t => [0xFFF, 0x000, 0x001].map t.readByte) =
      some [0x01#8, 0x02#8, 0x03#8] := by decide +kernel

theorem test_m10_bcd_halts :
    (after 0xF133 (addrFault ((withRegs [(1, 0x7B#8)]).setIndex 0xFFF#12))).map (fun t => (t.halt, [0xFFF, 0x000, 0x001].map t.readByte)) =
      some (some (.addrRange 0x200#12 0x1000), [0x00#8, 0xF0#8, 0x90#8]) := by decide +kernel

theorem test_m11_store_regs :
    (after 0xF255 ((withRegs [(0, 1#8), (1, 2#8), (2, 3#8)]).setIndex 0x300#12)).map (fun t => ([0x300, 0x301, 0x302].map t.readByte, t.i)) =
      some ([1#8, 2#8, 3#8], 0x303#12) := by decide +kernel

theorem test_m12_store_regs_extended :
    (after 0xF255 ((withRegs [(0, 1#8), (1, 2#8), (2, 3#8)] { State.reset with mode := .extended }).setIndex 0x300#12)).map (fun t => ([0x300, 0x301, 0x302].map t.readByte, t.i)) =
      some ([1#8, 2#8, 3#8], 0x300#12) := by decide +kernel

theorem test_m16_load_regs :
    (after 0xFF65 (withRam 0x300#12 0x300 ((List.range 16).map fun k => BitVec.ofNat 8 (0x10 + k)))).map (fun t => (t.v.toList, t.i)) =
      some ((List.range 16).map (fun k => BitVec.ofNat 8 (0x10 + k)), 0x310#12) := by decide +kernel

theorem test_m17_load_regs_alt :
    (after 0xF165 (withRam 0x300#12 0x300 [0xAA#8, 0xBB#8] { State.reset with altStoreLoad := true })).map (fun t => (t.reg 0, t.reg 1, t.i)) =
      some (0xAA#8, 0xBB#8, 0x300#12) := by decide +kernel

theorem test_m18_save_flags :
    (after 0xF175 (withRegs [(0, 1#8), (1, 2#8)])).map (fun t => t.hp48.toList) =
      some [1#8, 2#8, 0#8, 0#8, 0#8, 0#8, 0#8, 0#8] := by decide +kernel

theorem test_m19_save_flags_halts :
    (after 0xF875 State.reset).map (fun t => t.halt) =
      some (some (.hp48Range 0x200#12 8)) := by decide +kernel

theorem test_m21_load_flags :
    (after 0xF785 (withRegs [(15, 0xAA#8)] { State.reset with hp48 := Vector.replicate 8 9#8 })).map (fun t => t.v.toList) =
      some (List.replicate 8 9#8 ++ List.replicate 7 0#8 ++ [0xAA#8]) := by decide +kernel

theorem test_m22_load_flags_clamped :
    (after 0xFF85 (withRegs [(15, 0xAA#8)] { State.reset with hp48 := Vector.replicate 8 9#8, config := { Config.default with hp48Oob := .clamp } })).map (fun t => t.v.toList) =
      some (List.replicate 8 9#8 ++ List.replicate 7 0#8 ++ [0xAA#8]) := by decide +kernel

theorem test_g2_drw_legacy_collision :
    (after 0xD011 ((withRam 0x300#12 0x300 [0x80#8]).setVb (buffer [(1, 0)]))).map (fun t => (decide (t.vb = buffer [(0, 0), (0, 1), (1, 1)]), t.reg 15, t.events.length, t.inTick)) =
      some (true, 1#8, 1, false) := by decide +kernel

theorem test_g5_drw_wide :
    (after 0xD000 (withRam 0x300#12 0x300 ((List.range 32).map fun k => if k % 2 = 0 then 0x80#8 else 0x01#8) { State.reset with mode := .extended })).map (fun t => (decide (t.vb = buffer ((List.range 16).flatMap fun r => [(0, r), (15, r)])), t.reg 15)) =
      some (true, 0#8) := by decide +kernel

theorem test_g7_drw_edge :
    (after 0xD015 (withRegs [(0, 0x7E#8), (1, 0x3E#8)] { State.reset with mode := .extended })).map (fun t => (decide (t.vb = buffer [(126, 62), (127, 62), (126, 63)]), t.reg 15)) =
      some (true, 0#8) := by decide +kernel

theorem test_g3_drw_at_vf :
    (after 0xDFF1 (withRegs [(15, 0x0A#8)] (withRam 0x300#12 0x300 [0x80#8]))).map (fun t => (decide (t.vb = buffer [(20, 20), (21, 20), (20, 21), (21, 21)]), t.reg 15)) =
      some (true, 0#8) := by decide +kernel

theorem test_g9_drw_halts :
    (after 0xD01F (addrFault (withRegs [(15, 7#8)] (State.reset.setIndex 0xFF8#12)))).map (fun t => (t.halt, t.reg 15)) =
      some (some (.addrRange 0x200#12 0x1000), 7#8) := by decide +kernel

theorem test_k1_skp :
    (after 0xE19E (withRegs [(1, 5#8)] { State.reset with keyCur := State.reset.keyCur.set 5 .down })).map (fun t => t.pc) =
      some 0x204#12 := by decide +kernel

theorem test_k3_skp_past_the_keys :
    (after 0xE19E (withRegs [(1, 0x15#8)] { State.reset with keyCur := State.reset.keyCur.set 5 .down })).map (fun t => t.pc) =
      some 0x202#12 := by decide +kernel

theorem test_k5_sknp :
    (after 0xE1A1 (withRegs [(1, 5#8)] { State.reset with keyCur := State.reset.keyCur.set 5 .down })).map (fun t => t.pc) =
      some 0x202#12 := by decide +kernel

theorem test_k6_sknp_past_the_keys :
    (after 0xE1A1 (withRegs [(1, 0x10#8)])).map (fun t => t.pc) =
      some 0x204#12 := by decide +kernel

/-- Keys 3 and 9 Down, keys 2 and 6 Released (K7, K8). -/
def someKeys : State :=
  { State.reset with keyCur := (((State.reset.keyCur.set 3 .down).set 9 .down).set 2 .released).set 6 .released }

theorem test_k7_wait_legacy :
    (after 0xF20A someKeys).map (fun t => (t.reg 2, t.pc, t.keyCur[2])) =
      some (2#8, 0x202#12, .up) := by decide +kernel

theorem test_k8_wait_extended :
    (after 0xF20A { someKeys with mode := .extended }).map (fun t => (t.reg 2, t.pc)) =
      some (9#8, 0x202#12) := by decide +kernel

theorem test_k9_wait_goes_back :
    (after 0xF20A (withRegs [(2, 0x77#8)] { State.reset with keyCur := State.reset.keyCur.set 4 .down })).map (fun t => (t.reg 2, t.pc, t.inTick)) =
      some (0x77#8, 0x200#12, true) := by decide +kernel

theorem test_k10_ld_from_delay :
    (after 0xF307 { State.reset with dt := 0x3C#8 }).map (fun t => t.reg 3) =
      some 0x3C#8 := by decide +kernel

theorem test_k11_ld_delay :
    (after 0xF315 (withRegs [(3, 0x0A#8)])).map (fun t => t.dt) =
      some 0x0A#8 := by decide +kernel

theorem test_k12_ld_sound :
    (after 0xF418 (withRegs [(4, 3#8)] { State.reset with st := 5#8 })).map (fun t => (t.st, t.events)) =
      some (3#8, [.playSound]) := by decide +kernel

theorem test_k13_ld_sound_zero :
    (after 0xF418 { State.reset with st := 5#8 }).map (fun t => (t.st, t.events)) =
      some (0#8, []) := by decide +kernel

theorem test_f1_fetch_wraps :
    ((State.reset.writeByte 0xFFF 0x61#8).writeByte 0x000 0x2A#8 |>.setPc 0xFFF#12).fetchWord = .ok 0x612A#16 := by
  decide +kernel

theorem test_f2_fetch_halts : (addrFault (State.reset.setPc 0xFFF#12)).fetchWord = .error 0x1000 := by decide +kernel

theorem test_timer_step_stops_the_sound :
    ((State.timerStep { State.reset with st := 1#8, dt := 1#8 }).events, (State.timerStep State.reset).events) =
      ([.stopSound], []) := by decide +kernel

/-! ## Witnesses: states and operands that meet the hypotheses of each statement that has some -/

/-- A run inside a tick with this word at PC. -/
def inRun (w : Nat) (s : State := State.reset) : State := s.withFetchWord 16 w

/-- A run between two ticks. -/
def betweenRun (commands : List Command) : State :=
  { State.reset with lifecycle := .running, commands := commands }

/-- The reset state under `STACK_OOB = wrap`. -/
def ringStack (s : State := State.reset) : State := { s with config := { Config.default with stackOob := .wrap } }

theorem test_witness_DecodeOfEncodeIsTheInstruction :
    (Instr.sys 0x100#12).wellFormed = true ∧ (Instr.sys 0xFFF#12).wellFormed = true ∧
    (Instr.drw 15 15 15#4).wellFormed = true := by decide

theorem test_witness_EncodeOfDecodeIsTheWord :
    decodeWord 0x0100#16 = .ok (.sys 0x100#12) ∧ decodeWord 0xFF85#16 = .ok (.loadFlags 15) := by decide

theorem test_witness_RejectedWordsAreTheUnknownTable :
    (∀ w ∈ [0x0000#16, 0x00BF#16, 0x00D0#16, 0x00DF#16, 0x00E1#16, 0x00ED#16, 0x00EF#16, 0x00F0#16, 0x00FA#16,
      0x5001#16, 0x8008#16, 0x800F#16, 0x9001#16, 0xE000#16, 0xFFFF#16], UnknownWord w) ∧
    (∀ w ∈ [0x00C0#16, 0x00CF#16, 0x00E0#16, 0x00EE#16, 0x00FB#16, 0x0100#16, 0x5000#16, 0x800E#16, 0x9000#16],
      ¬ UnknownWord w) := by
  constructor <;> simp [UnknownWord]

theorem test_witness_FetchReadsTheHighByteFirst :
    (State.reset.setPc 0xFFF#12).config.addrOob = .wrap ∧
    (addrFault (State.reset.setPc 0xFFE#12)).pc.toNat < 0xFFF := by decide

theorem test_witness_StepRunsTheDecodedInstruction :
    (inRun 0x6005).inTick = true ∧ (inRun 0x6005).lifecycle = .running ∧ (inRun 0x6005).stepCount < 1024 ∧
    (inRun 0x6005).fetchWord = .ok 0x6005#16 ∧ decodeWord 0x6005#16 = .ok (.ldImm 0 5#8) := by decide +kernel

theorem test_witness_AfterAnInstructionKeysCountAndTimers :
    (State.reset.stopReq = false) ∧ ({ State.reset with stepCount := 1023 } : State).stopReq = false ∧
    1024 ≤ ({ State.reset with stepCount := 1023 } : State).stepCount + 1 ∧
    ¬ (({ State.reset with stepCount := 1022 } : State).haltForRender = true ∨
      1024 ≤ ({ State.reset with stepCount := 1022 } : State).stepCount + 1) ∧
    State.reset.requestRender.haltForRender = true := by decide

theorem test_witness_AfterAHaltOnlyTheStopSequence :
    (State.reset.raiseHalt (.finish 0x200#12)).stopReq = true ∧
    (State.reset.raiseHalt (.finish 0x200#12)).halt = some (.finish 0x200#12) ∧
    (State.reset.raiseHalt (.addrRange 0x200#12 4096)).halt = some (.addrRange 0x200#12 4096) := by decide

theorem test_witness_UnknownWordEndsTheRun :
    (inRun 0x0000).inTick = true ∧ (inRun 0x0000).lifecycle = .running ∧ (inRun 0x0000).stepCount < 1024 ∧
    (inRun 0x0000).fetchWord = .ok 0x0000#16 ∧ UnknownWord 0x0000#16 := by
  dsimp only [UnknownWord]; decide +kernel

theorem test_witness_FetchPastRamEndsTheRun :
    let s := (addrFault (State.reset.setPc 0xFFF#12)).withFetchWord 16 0
    s.inTick = true ∧ s.lifecycle = .running ∧ s.stepCount < 1024 ∧ s.config.addrOob = .fault ∧ s.pc = 0xFFF#12 := by
  decide +kernel

theorem test_witness_ExitEndsTheRunWithoutError :
    (inRun 0x00FD).inTick = true ∧ (inRun 0x00FD).lifecycle = .running ∧ (inRun 0x00FD).stepCount < 1024 ∧
    (inRun 0x00FD).fetchWord = .ok 0x00FD#16 := by decide +kernel

theorem test_witness_CallPushesTheReturnAddress :
    (State.reset.config.stackOob = .fault ∧ ({ State.reset with sp := 15 } : State).sp.val < 16) ∧
    ((ringStack { State.reset with sp := 15 }).config.stackOob = .wrap ∧
      (ringStack { State.reset with sp := 15 }).sp.val < 16) ∧
    ({ State.reset with sp := 16 } : State).sp.val = 16 := by decide

theorem test_witness_RetPopsTheReturnAddress :
    (State.reset.config.stackOob = .fault ∧ 0 < ({ State.reset with sp := 16 } : State).sp.val) ∧
    (ringStack.config.stackOob = .wrap ∧ ringStack.sp.val < 16) ∧ State.reset.sp.val = 0 := by decide

theorem test_witness_AddSetsTheCarry : (14 : Reg) ≠ 15 := by decide

theorem test_witness_SubtractionsSetNoBorrow : (0 : Reg) ≠ 15 := by decide

theorem test_witness_RegisterSkipsAddTwo :
    (0x5121#16).toNat / 4096 = 5 ∧ (0x5121#16).toNat % 16 ≠ 0 ∧ (0x9FFF#16).toNat / 4096 = 9 ∧
    (0x9FFF#16).toNat % 16 ≠ 0 := by decide

theorem test_witness_ShiftsTakeTheQuirkSource :
    (14 : Reg) ≠ 15 ∧ 3 = (if State.reset.altShift = false ∧ State.reset.mode = .legacy
      then ((withRegs [(1, 5#8), (2, 3#8)]).reg 2).toNat else ((withRegs [(1, 5#8), (2, 3#8)]).reg 1).toNat) ∧
    5 = (if startBuffer.altShift = false ∧ Mode.extended = .legacy
      then ((withRegs [(1, 5#8), (2, 3#8)]).reg 2).toNat else ((withRegs [(1, 5#8), (2, 3#8)]).reg 1).toNat) := by
  decide +kernel

theorem test_witness_BcdStoresThreeDigits :
    (Memory.wf State.reset.config State.reset.mem ∧ (State.reset.setIndex 0xFFF#12).config.addrOob = .wrap) ∧
    (addrFault (State.reset.setIndex 0xFFD#12)).i.toNat + 2 < 4096 := by decide

theorem test_witness_BlockStoreWritesTheRegisters :
    (Memory.wf State.reset.config State.reset.mem ∧ (State.reset.setIndex 0xFF8#12).config.addrOob = .wrap) ∧
    (addrFault (State.reset.setIndex 0xFF0#12)).i.toNat + (15 : Reg).val < 4096 := by decide

theorem test_witness_BlockLoadReadsTheRegisters :
    (State.reset.setIndex 0xFF8#12).config.addrOob = .wrap ∧
    (addrFault (State.reset.setIndex 0xFF0#12)).i.toNat + (15 : Reg).val < 4096 := by decide

theorem test_witness_AddressesPastRamHalt :
    (addrFault (State.reset.setIndex 0xFFE#12)).config.addrOob = .fault ∧
    4096 ≤ (addrFault (State.reset.setIndex 0xFFE#12)).i.toNat + 2 ∧
    4096 ≤ (addrFault (State.reset.setIndex 0xFFF#12)).i.toNat + (1 : Reg).val ∧
    4096 < (addrFault (State.reset.setIndex 0xFF1#12)).i.toNat + (if 0#4 = 0#4 then
      (if (addrFault (State.reset.setIndex 0xFF1#12)).mode = .extended then 32 else 16) else (0#4).toNat) := by decide

theorem test_witness_FlagBytesAreSavedAndLoaded :
    (7 : Reg).val < 8 ∧
    ({ State.reset with config := { Config.default with hp48Oob := .clamp } } : State).config.hp48Oob = .clamp ∧
    (8 ≤ (8 : Reg).val) := by decide

theorem test_witness_FlagBytesPastSevenHalt : 8 ≤ (8 : Reg).val ∧ State.reset.config.hp48Oob = .fault := by decide

theorem test_witness_DrawFlipsTheSpritesCells :
    (State.reset.config.addrOob = .wrap ∧
      (addrFault (State.reset.setIndex 0xFFF#12)).i.toNat + (if 1#4 = 0#4 then
        (if (addrFault (State.reset.setIndex 0xFFF#12)).mode = .extended then 32 else 16) else (1#4).toNat) ≤ 4096) ∧
    (DrawHits (withRam 0x300#12 0x300 [0x80#8]) 0 1 1#4 1 0 = true ∧
      VideoBuffer.getPixel (buffer [(1, 0)]) 1 0 = true) ∧
    (∀ cx cy : Nat, cx < 128 → cy < 64 → DrawHits (withRam 0x300#12 0x300 [0x80#8]) 0 1 1#4 cx cy = true →
      VideoBuffer.getPixel State.reset.vb cx cy = false) := by
  exact ⟨by decide, by decide +kernel, fun cx cy _ _ _ => VideoBuffer.getPixel_clear cx cy⟩

theorem test_witness_DrawingTwiceRestoresTheBuffer :
    State.reset.config.addrOob = .wrap ∧
    ∃ t, exec (.drw 0 1 1#4) (withRam 0x300#12 0x300 [0x80#8]) = .next t ∧
      t.reg 0 = (withRam 0x300#12 0x300 [0x80#8]).reg 0 ∧ t.reg 1 = (withRam 0x300#12 0x300 [0x80#8]).reg 1 :=
  ⟨by decide, _, rfl, by decide +kernel, by decide +kernel⟩

theorem test_witness_KeySkipsReadTheKey :
    (true = true ↔ ∃ k : Fin 16, k.val = ((withRegs [(1, 3#8)] someKeys).reg 1).toNat ∧
      (withRegs [(1, 3#8)] someKeys).keyCur[k.val] = .down) ∧
    (false = true ↔ ∃ k : Fin 16, k.val = ((withRegs [(1, 0x10#8)] someKeys).reg 1).toNat ∧
      (withRegs [(1, 0x10#8)] someKeys).keyCur[k.val] = .down) := by decide +kernel

theorem test_witness_WaitForKeyFindsOrRewinds :
    (someKeys.mode = .legacy ∧ someKeys.keyCur[(2 : Fin 16).val] = .released ∧
      ∀ j : Fin 16, j < 2 → someKeys.keyCur[j.val] ≠ .released) ∧
    (someKeys.keyCur[(9 : Fin 16).val] = .down ∧ ∀ j : Fin 16, 9 < j → someKeys.keyCur[j.val] ≠ .down) ∧
    (∀ k : Fin 16, State.reset.keyCur[k.val] ≠ .released) := by decide +kernel

theorem test_witness_KeyReleaseIsSeenOnce :
    ({ State.reset with keyPrev := State.reset.keyPrev.set 5 .down } : State).keyPrev[(5 : Fin 16).val] = .down ∧
    ({ State.reset with keyPrev := State.reset.keyPrev.set 5 .down } : State).keyCur[(5 : Fin 16).val] = .up := by
  decide

/-- Stopped, with a Run command pending. -/
def runPending (rom : Rom) : State := { State.reset with commands := [.run (some rom) (some true) (some false)] }

theorem test_witness_RunStartsFromTheResetTable :
    (runPending (.bytes (List.replicate 3584 1#8))).lifecycle = .stopped ∧
    (runPending (.bytes (List.replicate 3584 1#8))).inTick = false ∧ (List.replicate 3584 1#8).length ≤ 3584 ∧
    (runPending (.bytes (List.replicate 3584 1#8))).commands =
      .run (some (.bytes (List.replicate 3584 1#8))) (some true) (some false) :: [] := by
  refine ⟨rfl, rfl, ?_, rfl⟩
  rw [List.length_replicate]

theorem test_witness_BadRomIsALoadFailure :
    (runPending .unobtainable).lifecycle = .stopped ∧ (runPending .unobtainable).inTick = false ∧
    (runPending .unobtainable).commands = .run (some .unobtainable) (some true) (some false) :: [] ∧
    3584 < (List.replicate 3585 1#8).length := by
  refine ⟨rfl, rfl, rfl, ?_⟩
  rw [List.length_replicate]; decide

theorem test_witness_StopCommandStopsTheRun :
    (betweenRun [.stop]).lifecycle = .running ∧ (betweenRun [.stop]).inTick = false ∧
    (betweenRun [.stop]).commands = .stop :: [] := by decide

theorem test_witness_InputAndSettingsAreApplied :
    (betweenRun []).lifecycle = .running ∧ (betweenRun []).inTick = false ∧
    (betweenRun [.sendInput (some 15) (some .released)]).commands =
      .sendInput (some (15 : Fin 16).val) (some .released) :: [] ∧
    (betweenRun [.setSettings (some true) (some false)]).commands = .setSettings (some true) (some false) :: [] := by
  decide

theorem test_witness_UnacceptedCommandsChangeNothing :
    (match Command.run (some .unobtainable) (some true) (some true) with
      | .run rom a b => (betweenRun []).lifecycle ≠ .stopped ∨ rom = none ∨ a = none ∨ b = none
      | _ => False) ∧
    State.reset.lifecycle ≠ .running ∧
    (match Command.setSettings (some true) none with
      | .setSettings a b => (betweenRun []).lifecycle ≠ .running ∨ a = none ∨ b = none
      | _ => False) ∧
    (match Command.sendInput (some 16) (some .down) with
      | .sendInput k x => (betweenRun []).lifecycle ≠ .running ∨ x = none ∨ k = none ∨ ∃ j, k = some j ∧ 16 ≤ j
      | _ => False) :=
  ⟨.inl (by decide), by decide, .inr (.inr rfl), .inr (.inr (.inr ⟨16, rfl, by decide⟩))⟩

theorem test_witness_CommandsComeBeforeTheNextTick :
    (betweenRun [.stop]).lifecycle = .running ∧ (betweenRun [.stop]).inTick = false ∧
    (betweenRun [.stop]).commands = .stop :: [] ∧ (betweenRun []).commands = [] ∧ (betweenRun []).arrivals = [] ∧
    ({ betweenRun [] with arrivals := [[.stop], []] } : State).lifecycle = .running ∧
    ({ betweenRun [] with arrivals := [[.stop], []] } : State).inTick = false ∧
    ({ betweenRun [] with arrivals := [[.stop], []] } : State).commands = [] ∧
    ({ betweenRun [] with arrivals := [[.stop], []] } : State).arrivals = [.stop] :: [[]] := by decide

theorem test_witness_StoppedMachineWaits :
    State.reset.lifecycle = .stopped ∧ State.reset.inTick = false ∧ State.reset.commands = [] ∧
    State.reset.arrivals = [] ∧
    ({ State.reset with commands := [.stop] } : State).commands = .stop :: [] ∧
    ({ State.reset with arrivals := [[], [.stop]] } : State).commands = [] ∧
    ({ State.reset with arrivals := [[], [.stop]] } : State).arrivals = [] :: [[.stop]] := by decide

/-- Stopped after another run, with the same Run command pending. -/
def runPendingAgain : State := { withRegs [(3, 7#8)] (runPending (.bytes [0x12#8])) with mode := .extended, st := 9#8 }

theorem test_witness_NothingSurvivesIntoTheNextRun :
    ∃ t t' u u', (runPending (.bytes [0x12#8])).lifecycle = .stopped ∧ runPendingAgain.lifecycle = .stopped ∧
      (runPending (.bytes [0x12#8])).inTick = false ∧ runPendingAgain.inTick = false ∧ [0x12#8].length ≤ 3584 ∧
      (runPending (.bytes [0x12#8])).commands = .run (some (.bytes [0x12#8])) (some true) (some false) :: [] ∧
      runPendingAgain.commands = (runPending (.bytes [0x12#8])).commands ∧
      runPendingAgain.events = (runPending (.bytes [0x12#8])).events ∧
      runPendingAgain.arrivals = (runPending (.bytes [0x12#8])).arrivals ∧
      runPendingAgain.draws = (runPending (.bytes [0x12#8])).draws ∧
      runPendingAgain.config = (runPending (.bytes [0x12#8])).config ∧
      step (runPending (.bytes [0x12#8])) = .next t ∧ step t = .next u ∧
      step runPendingAgain = .next t' ∧ step t' = .next u' :=
  ⟨_, _, _, _, rfl, rfl, rfl, rfl, by decide, rfl, rfl, rfl, rfl, rfl, rfl, rfl, rfl, rfl, rfl⟩

/-- A run inside a tick, with a step of it done, meets the invariant. -/
theorem test_witness_EveryStepKeepsTheInvariant :
    (inRun 0x1200 { State.reset with sp := 16, stepCount := 5 }).Inv :=
  ⟨by decide +kernel, by decide +kernel, by decide +kernel, by decide +kernel, by decide +kernel, by decide +kernel,
    by decide +kernel⟩

theorem test_witness_EveryTickEnds :
    (inRun 0x1200 { State.reset with sp := 16, stepCount := 5 }).inTick = true := by decide +kernel

theorem test_witness_OnlyTheNamedInstructionsWrite :
    (∃ t, exec (.ldIndex 5#12) State.reset = .next t ∧ t.i ≠ State.reset.i) ∧
    (∃ t, exec (.call 0x300#12) State.reset = .next t ∧ t.sp ≠ State.reset.sp ∧ t.stack ≠ State.reset.stack) ∧
    (∃ t, exec (.saveFlags 3) (withRegs [(3, 7#8)]) = .next t ∧ t.hp48 ≠ (withRegs [(3, 7#8)]).hp48) ∧
    (∃ t, exec (.ldDelay 3) (withRegs [(3, 7#8)]) = .next t ∧ t.dt ≠ (withRegs [(3, 7#8)]).dt) ∧
    (∃ t, exec (.ldSound 3) (withRegs [(3, 7#8)]) = .next t ∧ t.st ≠ (withRegs [(3, 7#8)]).st) ∧
    (∃ t, exec .high State.reset = .next t ∧ t.mode ≠ State.reset.mode) ∧
    (∃ t, exec (.storeRegs 0) (withRegs [(0, 7#8)] (State.reset.setIndex 0x300#12)) = .next t ∧
      t.mem ≠ (withRegs [(0, 7#8)] (State.reset.setIndex 0x300#12)).mem) ∧
    (∃ t, exec .cls startBuffer = .next t ∧ t.vb ≠ startBuffer.vb) ∧
    (∃ t, exec (.loadFlags 7) (withRegs [(7, 1#8)]) = .next t ∧ t.reg 7 ≠ (withRegs [(7, 1#8)]).reg 7) ∧
    (∃ t, exec (.jp 0x300#12) State.reset = .next t ∧ t.pc ≠ State.reset.pc) ∧
    (∃ t, exec .high State.reset = .next t ∧ t.haltForRender ≠ State.reset.haltForRender) ∧
    (∃ t, exec .ret State.reset = .next t ∧ t.stopReq ≠ State.reset.stopReq ∧ t.halt ≠ State.reset.halt) ∧
    (∃ t, exec (.rnd 0 0#8) State.reset = .next t ∧ t.draws ≠ State.reset.draws) :=
  ⟨⟨_, rfl, by decide +kernel⟩, ⟨_, rfl, by decide +kernel, by decide +kernel⟩, ⟨_, rfl, by decide +kernel⟩,
    ⟨_, rfl, by decide +kernel⟩, ⟨_, rfl, by decide +kernel⟩, ⟨_, rfl, by decide +kernel⟩,
    ⟨_, rfl, by decide +kernel⟩, ⟨_, rfl, by decide +kernel⟩, ⟨_, rfl, by decide +kernel⟩,
    ⟨_, rfl, by decide +kernel⟩, ⟨_, rfl, by decide +kernel⟩, ⟨_, rfl, by decide +kernel, by decide +kernel⟩,
    ⟨_, rfl, by decide +kernel⟩⟩

theorem test_witness_HaltsWriteNothingElse :
    ∃ t, exec .exit State.reset = .next t ∧ State.reset.stopReq = false ∧ t.stopReq = true :=
  ⟨_, rfl, rfl, rfl⟩

theorem test_witness_VideoInstructionsEndTheTick :
    (∃ t, exec .high State.reset = .next t ∧ State.reset.stopReq = false ∧ t.stopReq = false ∧
      t.haltForRender = true) ∧
    (∃ t, exec (.jp 0x200#12) State.reset = .next t ∧ State.reset.stopReq = false ∧ t.stopReq = false) :=
  ⟨⟨_, rfl, rfl, rfl, rfl⟩, ⟨_, rfl, rfl, rfl⟩⟩

theorem test_witness_CanonicalMemoryIsItsBytes :
    (Memory.wf Config.default [] ∧ Memory.wf Config.default [(0x000, 0x01#8), (0xFFF, 0x02#8)]) ∧
    Memory.write Config.default [(0xFFF, 0x02#8)] 0xFFF 0x00#8 = [] := by decide +kernel

theorem test_witness_StoresAreSeenByTheNextFetch :
    let s := { withRegs [(0, 0x12#8), (1, 0x34#8)] with i := 0x202#12, pc := 0x202#12 }
    Memory.wf s.config s.mem ∧ ∃ t, exec (.storeRegs 1) s = .next t ∧ t.stopReq = false ∧ s.stopReq = false ∧
      (0 : Reg) < 1 ∧ s.pc.toNat = s.i.toNat + (0 : Reg).val ∧ s.pc.toNat + 1 < 4096 :=
  ⟨by decide +kernel, _, rfl, by decide +kernel, rfl, by decide, by decide +kernel, by decide +kernel⟩

end Sys2Proof.Tests
end

section
/-! PROOFS. The display instructions that write VB and signal a frame: 00E0, 00FB and 00FC (spec/40_system_display.md R120 to R123). -/

namespace Sys2Proof.Machine

/-! ## What the instructions answer -/

theorem exec_cls (s : State) : exec .cls s = .next (s.setVb VideoBuffer.clear).signalFrame := rfl

theorem exec_scr (s : State) : exec .scr s = .next (s.setVb (VideoBuffer.scrollRight s.vb)).signalFrame := rfl

theorem exec_scl (s : State) : exec .scl s = .next (s.setVb (VideoBuffer.scrollLeft s.vb)).signalFrame := rfl

/-! ## The frame they signal -/

/-- Signalling a frame after a write of VB: the event holds the new buffer, the flag is set, and nothing but the
video state changes (R120). -/
theorem State.setVb_signalFrame_spec (s : State) (b : VideoBuffer) :
    (s.setVb b).signalFrame.events = s.events ++ [.frameReady (s.setVb b).signalFrame.vb] ∧
      (s.setVb b).signalFrame.haltForRender = true ∧ OnlyVideo s (s.setVb b).signalFrame :=
  ⟨by simp, by simp, s.setVb_signalFrame_onlyVideo b⟩

/-! ## The statements -/

/-- Settles O13: a cell after the scroll is read by the law of `scrollRight`, and the rest is the signalled frame. -/
theorem scrMovesTheBufferRight : Obligations.ScrMovesTheBufferRight := by
  intro s
  refine ⟨_, exec_scr s, fun x y hx hy => ?_, s.setVb_signalFrame_spec _⟩
  simp [VideoBuffer.getPixel_scrollRight s.vb hx hy]

/-- Settles O14: a cell after the scroll is read by the law of `scrollLeft`, and the rest is the signalled frame. -/
theorem sclMovesTheBufferLeft : Obligations.SclMovesTheBufferLeft := by
  intro s
  refine ⟨_, exec_scl s, fun x y _ hy => ?_, s.setVb_signalFrame_spec _⟩
  simp [VideoBuffer.getPixel_scrollLeft s.vb hy]

/-- Settles O12: every cell of the cleared buffer is 0, so is every byte of its frame. -/
theorem clsClearsAndSignalsAFrame : Obligations.ClsClearsAndSignalsAFrame := by
  intro s
  refine ⟨_, exec_cls s, fun x y => ?_, ?_, s.setVb_signalFrame_spec _⟩
  · simp
  · rw [State.signalFrame_vb, State.setVb_vb, VideoBuffer.payload_clear]

end Sys2Proof.Machine
end

section
/-! PROOFS. The skips on registers and immediates: 3xkk, 4xkk, 5xy0 and 9xy0, and the words 5xyN and 9xyN that are no instruction (spec/41_control_flow.md R153 to R157). -/

/-! ## The words with a nonzero N -/

namespace Sys2Proof

/-- Major opcodes 5 and 9 have an instruction for N = 0 alone (R96). -/
theorem decodeWord_error_of_nField_ne_zero {w : Opcode} (hop : opField w = 5#4 ∨ opField w = 9#4)
    (hn : nField w ≠ 0#4) : decodeWord w = .error (.unknownOpcode w) := by
  obtain h5 | h9 := hop
  · simp [decodeWord, h5, hn]
  · simp [decodeWord, h9, hn]

end Sys2Proof

namespace Sys2Proof.Machine

/-! ## What the instructions answer -/

theorem exec_seImm (x : Reg) (kk : Byte) (s : State) :
    exec (.seImm x kk) s = .next (s.skipIf (decide (s.reg x = kk))) := rfl

theorem exec_sneImm (x : Reg) (kk : Byte) (s : State) :
    exec (.sneImm x kk) s = .next (s.skipIf (decide (s.reg x ≠ kk))) := rfl

theorem exec_seReg (x y : Reg) (s : State) :
    exec (.seReg x y) s = .next (s.skipIf (decide (s.reg x = s.reg y))) := rfl

theorem exec_sneReg (x y : Reg) (s : State) :
    exec (.sneReg x y) s = .next (s.skipIf (decide (s.reg x ≠ s.reg y))) := rfl

/-! ## The skip as arithmetic on PC -/

/-- A skip adds 2 to PC modulo 4096 when its condition holds, and 0 otherwise (R153). -/
theorem State.skipIf_pc_toNat (s : State) (b : Bool) :
    (s.skipIf b).pc.toNat = (s.pc.toNat + if b then 2 else 0) % 4096 := by
  have hpc : s.pc.toNat < 4096 := s.pc.isLt
  rw [State.skipIf_eq]
  cases b with
  | false => simp [Nat.mod_eq_of_lt hpc]
  | true => simp [BitVec.toNat_add]

/-- A skip on a condition, in the form "skip if it holds". -/
theorem State.skipIf_decide_spec (s : State) (p : Prop) [Decidable p] :
    OnlyPc s (s.skipIf (decide p)) ∧
      (s.skipIf (decide p)).pc.toNat = (s.pc.toNat + if p then 2 else 0) % 4096 :=
  ⟨s.skipIf_onlyPc _, by simp [State.skipIf_pc_toNat]⟩

/-- A skip on a condition's negation, in the form "skip unless it holds". -/
theorem State.skipIf_decide_not_spec (s : State) (p : Prop) [Decidable p] :
    OnlyPc s (s.skipIf (decide ¬p)) ∧
      (s.skipIf (decide ¬p)).pc.toNat = (s.pc.toNat + if p then 0 else 2) % 4096 := by
  simpa only [ite_not] using s.skipIf_decide_spec ¬p

/-! ## The statement -/

/-- Settles O20: each skip is `skipIf` of its condition, which moves PC alone, and the two fields of a word that the
decoder tests are read as arithmetic on the word. -/
theorem registerSkipsAddTwo : Obligations.RegisterSkipsAddTwo := by
  intro x y kk s
  refine ⟨⟨_, exec_seImm x kk s, s.skipIf_decide_spec _⟩, ⟨_, exec_sneImm x kk s, s.skipIf_decide_not_spec _⟩,
    ⟨_, exec_seReg x y s, s.skipIf_decide_spec _⟩, ⟨_, exec_sneReg x y s, s.skipIf_decide_not_spec _⟩,
    fun w hop hn => decodeWord_error_of_nField_ne_zero ?_ ?_⟩
  · exact hop.imp (opField_eq_iff w 5#4).mpr (opField_eq_iff w 9#4).mpr
  · exact mt (nField_eq_iff w 0#4).mp hn

end Sys2Proof.Machine
end

section
/-! PROOFS. The index register: Annn loads I and Fx1E adds Vx to it (spec/43_index_memory.md R220, R222). -/

namespace Sys2Proof.Machine

/-! ## What the instructions answer -/

theorem exec_ldIndex (nnn : Address) (s : State) : exec (.ldIndex nnn) s = .next (s.setIndex nnn) := rfl

theorem exec_addIndex (x : Reg) (s : State) :
    exec (.addIndex x) s = .next (s.setIndex (s.i + (s.reg x).setWidth 12)) := rfl

/-! ## The sum as arithmetic -/

/-- A byte widened to an address keeps its value, so the sum of the two wraps at 4096 and nowhere else. -/
theorem address_add_byte_toNat (a : Address) (b : Byte) :
    (a + b.setWidth 12).toNat = (a.toNat + b.toNat) % 4096 := by
  rw [BitVec.toNat_add, BitVec.toNat_setWidth_of_le (by decide)]

/-! ## The statement -/

/-- Settles O27: both instructions are `setIndex`, which moves I alone, and the sum wraps as an address does. -/
theorem indexIsLoadedAndAdded : Obligations.IndexIsLoadedAndAdded := by
  intro nnn x s
  refine ⟨⟨_, exec_ldIndex nnn s, ?_, s.setIndex_onlyIndex _⟩,
    ⟨_, exec_addIndex x s, ?_, s.setIndex_onlyIndex _⟩⟩
  · rw [State.setIndex_i]
  · rw [State.setIndex_i, address_add_byte_toNat]

end Sys2Proof.Machine
end

section
/-! PROOFS. The delay timer: Fx07 reads DT into Vx and Fx15 sets DT from Vx (spec/45_input_timers.md R274, R275). -/

namespace Sys2Proof.Machine

/-! ## What the instructions answer -/

theorem exec_ldFromDelay (x : Reg) (s : State) : exec (.ldFromDelay x) s = .next (s.setReg x s.dt) := rfl

theorem exec_ldDelay (x : Reg) (s : State) : exec (.ldDelay x) s = .next { s with dt := s.reg x } := rfl

/-! ## The statement -/

/-- Settles O39: Fx07 is `setReg`, which moves Vx alone, and Fx15 writes the field DT, on which neither the registers
nor RAM depend. -/
theorem delayTimerIsReadAndSet : Obligations.DelayTimerIsReadAndSet := by
  intro x s
  refine ⟨⟨_, exec_ldFromDelay x s, ?_, s.setReg_keepsRegsBut x _, s.setReg_onlyRegs x _⟩,
    ⟨_, exec_ldDelay x s, rfl, rfl, keepsRegs_of_v rfl, keepsRam_of_mem rfl rfl⟩⟩
  rw [State.reg_setReg, if_pos rfl]

end Sys2Proof.Machine
end

section
/-! PROOFS. The decoder and the encoder undo each other, and the words that the decoder rejects (spec/30_encoding.md R93 to R97). -/

namespace Sys2Proof

/-! ## Decoding an encoded instruction, major opcode by major opcode -/

@[simp] theorem decodeWord_encodeCount (n : BitVec 4) : decodeWord (encodeCount 0x00C#12 n) = .ok (.scd n) := by
  simp [decodeWord, decodeSystem]

theorem decodeWord_encodeAddress_sys {nnn : Address} (h : nnn.extractLsb' 8 4 ≠ 0#4) :
    decodeWord (encodeAddress 0x0#4 nnn) = .ok (.sys nnn) := by
  simp [decodeWord, h]

/-- Under major opcode 8 the word's N selects the instruction. -/
theorem decodeWord_encodeNibbles_alu (x y : Reg) (n : BitVec 4) :
    decodeWord (encodeNibbles 0x8#4 x y n) = decodeAlu (encodeNibbles 0x8#4 x y n) := by
  simp [decodeWord]

/-- Under major opcode E the word's KK selects the instruction. -/
theorem decodeWord_encodeByte_key (x : Reg) (kk : Byte) :
    decodeWord (encodeByte 0xE#4 x kk) = decodeKey (encodeByte 0xE#4 x kk) := by
  simp [decodeWord]

/-- Under major opcode F the word's KK selects the instruction. -/
theorem decodeWord_encodeByte_misc (x : Reg) (kk : Byte) :
    decodeWord (encodeByte 0xF#4 x kk) = decodeMisc (encodeByte 0xF#4 x kk) := by
  simp [decodeWord]

/-- Settles O1: the fixed words by evaluation; every other word by its layout, whose fields are read back one by one,
first the major opcode and then, under 8, E and F, the sub-opcode. -/
theorem decodeOfEncodeIsTheInstruction : Obligations.DecodeOfEncodeIsTheInstruction := by
  intro i hwf
  cases i with
  | cls | ret | scr | scl | exit | low | high => rfl
  | scd n => exact decodeWord_encodeCount n
  | sys nnn => exact decodeWord_encodeAddress_sys (by simpa [Instr.wellFormed] using hwf)
  | jp nnn | call nnn | ldIndex nnn | jpV0 nnn => simp [encode, decodeWord]
  | seImm x kk | sneImm x kk | ldImm x kk | addImm x kk | rnd x kk => simp [encode, decodeWord]
  | seReg x y | sneReg x y | drw x y n => simp [encode, decodeWord]
  | ldReg x y | orReg x y | andReg x y | xorReg x y | addReg x y | subReg x y | shrReg x y | subnReg x y | shlReg x y =>
    rw [encode, decodeWord_encodeNibbles_alu]
    simp [decodeAlu]
  | skp x | sknp x =>
    rw [encode, decodeWord_encodeByte_key]
    simp [decodeKey]
  | ldFromDelay x | waitKey x | ldDelay x | ldSound x | addIndex x | ldFont x | ldLargeFont x | storeBcd x | storeRegs x
    | loadRegs x | saveFlags x | loadFlags x =>
    rw [encode, decodeWord_encodeByte_misc]
    simp [decodeMisc]


/-! ## Encoding a decoded word again -/

/-- The instruction has a word, and it is this one (R93, R97). -/
def Instr.HasWord (i : Instr) (w : Opcode) : Prop := i.wellFormed = true ∧ encode i = w

theorem encodeAddress_of_opField {w : Opcode} {op : BitVec 4} (h : opField w = op) :
    encodeAddress op (nnnField w) = w := h ▸ encodeAddress_fields w

theorem encodeByte_of_fields {w : Opcode} {op : BitVec 4} {kk : Byte} (h : opField w = op) (hkk : kkField w = kk) :
    encodeByte op (xField w) kk = w := h ▸ hkk ▸ encodeByte_fields w

theorem encodeNibbles_of_fields {w : Opcode} {op n : BitVec 4} (h : opField w = op) (hn : nField w = n) :
    encodeNibbles op (xField w) (yField w) n = w := h ▸ hn ▸ encodeNibbles_fields w

/-- The word 00KK is known from its three fields. -/
theorem eq_of_system_fields {w : Opcode} {kk : Byte} (hop : opField w = 0#4) (hx : w.extractLsb' 8 4 = 0#4)
    (hkk : kkField w = kk) : kk.setWidth 16 = w := by
  simp only [opField_eq_iff, extractX_eq_iff, kkField_eq_iff, BitVec.toNat_ofNat, Nat.reducePow, Nat.zero_mod]
    at hop hx hkk
  apply BitVec.eq_of_toNat_eq
  rw [BitVec.toNat_setWidth_of_le (by decide)]
  omega

/-- The word 00CN is known from its fields. -/
theorem encodeCount_of_fields {w : Opcode} (hop : opField w = 0#4) (hx : w.extractLsb' 8 4 = 0#4)
    (hy : w.extractLsb' 4 4 = 0xC#4) : encodeCount 0x00C#12 (nField w) = w := by
  have hword := encodeNibbles_fields w
  rw [hop, encodeNibbles, ofFin_xField, ofFin_yField, hx, hy] at hword
  exact hword

theorem hasWord_of_decodeSystem {w : Opcode} {i : Instr} (hop : opField w = 0#4) (hx : w.extractLsb' 8 4 = 0#4)
    (h : decodeSystem w = .ok i) : i.HasWord w := by
  unfold decodeSystem at h
  split at h
  · next hy =>
    cases h
    exact ⟨rfl, encodeCount_of_fields hop hx hy⟩
  · split at h <;> rename_i hkk <;> cases h <;> exact ⟨rfl, eq_of_system_fields hop hx hkk⟩

theorem hasWord_of_decodeAlu {w : Opcode} {i : Instr} (hop : opField w = 8#4) (h : decodeAlu w = .ok i) :
    i.HasWord w := by
  unfold decodeAlu at h
  split at h <;> cases h <;> exact ⟨rfl, encodeNibbles_of_fields hop ‹_›⟩

theorem hasWord_of_decodeKey {w : Opcode} {i : Instr} (hop : opField w = 14#4) (h : decodeKey w = .ok i) :
    i.HasWord w := by
  unfold decodeKey at h
  split at h <;> cases h <;> exact ⟨rfl, encodeByte_of_fields hop ‹_›⟩

theorem hasWord_of_decodeMisc {w : Opcode} {i : Instr} (hop : opField w = 15#4) (h : decodeMisc w = .ok i) :
    i.HasWord w := by
  unfold decodeMisc at h
  split at h <;> cases h <;> exact ⟨rfl, encodeByte_of_fields hop ‹_›⟩

/-- Settles O2: for each major opcode the decoded fields, put back in the layout they were read from, are the word. -/
theorem encodeOfDecodeIsTheWord : Obligations.EncodeOfDecodeIsTheWord := by
  intro w i h
  show i.HasWord w
  unfold decodeWord at h
  split at h
  case h_1 hop =>
    split at h
    · next hx => exact hasWord_of_decodeSystem hop hx h
    · next hx =>
      cases h
      exact ⟨by simpa [Instr.wellFormed, nnnField] using hx, encodeAddress_of_opField hop⟩
  case h_2 hop | h_3 hop | h_11 hop | h_12 hop => cases h; exact ⟨rfl, encodeAddress_of_opField hop⟩
  case h_4 hop | h_5 hop | h_7 hop | h_8 hop | h_13 hop => cases h; exact ⟨rfl, encodeByte_of_fields hop rfl⟩
  case h_6 hop | h_10 hop =>
    split at h
    · next hn => cases h; exact ⟨rfl, encodeNibbles_of_fields hop hn⟩
    · cases h
  case h_9 hop => exact hasWord_of_decodeAlu hop h
  case h_14 hop => cases h; exact ⟨rfl, encodeNibbles_of_fields hop rfl⟩
  case h_15 hop => exact hasWord_of_decodeKey hop h
  case h_16 =>
    have hop : opField w = 15#4 := by
      have hlt := w.isLt
      simp only [opField_eq_iff, imp_false, BitVec.toNat_ofNat] at *
      omega
    exact hasWord_of_decodeMisc hop h

/-! ## The rejected words -/

/-- A decoder rejects the word by name exactly where `p` holds, and reads an instruction elsewhere (R96). -/
def RejectsIff (w : Opcode) (p : Prop) (answer : Except DecodeError Instr) : Prop :=
  (p → answer = .error (.unknownOpcode w)) ∧ (¬p → ∃ i, answer = .ok i)

theorem RejectsIff.congr {w : Opcode} {p q : Prop} {answer : Except DecodeError Instr} (h : RejectsIff w p answer)
    (hpq : q ↔ p) : RejectsIff w q answer := by rwa [RejectsIff, hpq]

theorem rejectsIff_of_ok {w : Opcode} {p : Prop} {i : Instr} (hp : ¬p) : RejectsIff w p (.ok i) :=
  ⟨fun h => absurd h hp, fun _ => ⟨i, rfl⟩⟩

theorem rejectsIff_of_error {w : Opcode} {p : Prop} (hp : p) : RejectsIff w p (.error (.unknownOpcode w)) :=
  ⟨fun _ => rfl, fun h => absurd hp h⟩

theorem rejectsIff_decodeSystem (w : Opcode) :
    RejectsIff w (w.toNat / 16 % 16 ≠ 0xC ∧ w.toNat % 256 ∉ [0xE0, 0xEE, 0xFB, 0xFC, 0xFD, 0xFE, 0xFF])
      (decodeSystem w) := by
  unfold decodeSystem
  simp only [extractY_eq_iff]
  split
  · next hy => exact rejectsIff_of_ok fun h => h.1 hy
  · next hy =>
    split <;> simp only [kkField_eq_iff, imp_false, BitVec.toNat_ofNat, Nat.reducePow, Nat.reduceMod] at *
    case h_8 => exact rejectsIff_of_error ⟨hy, by simp only [List.mem_cons, List.not_mem_nil, or_false]; omega⟩
    all_goals exact rejectsIff_of_ok (by simp [*])

theorem rejectsIff_decodeAlu (w : Opcode) :
    RejectsIff w (w.toNat % 16 ∈ [0x8, 0x9, 0xA, 0xB, 0xC, 0xD, 0xF]) (decodeAlu w) := by
  unfold decodeAlu
  split <;> simp only [nField_eq_iff, imp_false, BitVec.toNat_ofNat, Nat.reducePow, Nat.reduceMod] at *
  case h_10 => exact rejectsIff_of_error (by simp only [List.mem_cons, List.not_mem_nil, or_false]; omega)
  all_goals exact rejectsIff_of_ok (by simp [*])

theorem rejectsIff_decodeKey (w : Opcode) : RejectsIff w (w.toNat % 256 ∉ [0x9E, 0xA1]) (decodeKey w) := by
  unfold decodeKey
  split <;> simp only [kkField_eq_iff, imp_false, BitVec.toNat_ofNat, Nat.reducePow, Nat.reduceMod] at *
  case h_3 => exact rejectsIff_of_error (by simp only [List.mem_cons, List.not_mem_nil, or_false]; omega)
  all_goals exact rejectsIff_of_ok (by simp [*])

theorem rejectsIff_decodeMisc (w : Opcode) :
    RejectsIff w (w.toNat % 256 ∉ [0x07, 0x0A, 0x15, 0x18, 0x1E, 0x29, 0x30, 0x33, 0x55, 0x65, 0x75, 0x85])
      (decodeMisc w) := by
  unfold decodeMisc
  split <;> simp only [kkField_eq_iff, imp_false, BitVec.toNat_ofNat, Nat.reducePow, Nat.reduceMod] at *
  case h_13 => exact rejectsIff_of_error (by simp only [List.mem_cons, List.not_mem_nil, or_false]; omega)
  all_goals exact rejectsIff_of_ok (by simp [*])

/-- The rows of the table from 0x1000 on (R96). -/
theorem unknownWord_iff_of_ge {w : Opcode} (h : 0x1000 ≤ w.toNat) :
    Machine.UnknownWord w ↔
      (w.toNat / 4096 = 5 ∧ w.toNat % 16 ≠ 0) ∨
      (w.toNat / 4096 = 8 ∧ w.toNat % 16 ∈ [0x8, 0x9, 0xA, 0xB, 0xC, 0xD, 0xF]) ∨
      (w.toNat / 4096 = 9 ∧ w.toNat % 16 ≠ 0) ∨
      (w.toNat / 4096 = 14 ∧ w.toNat % 256 ∉ [0x9E, 0xA1]) ∨
      (w.toNat / 4096 = 15 ∧
        w.toNat % 256 ∉ [0x07, 0x0A, 0x15, 0x18, 0x1E, 0x29, 0x30, 0x33, 0x55, 0x65, 0x75, 0x85]) := by
  unfold Machine.UnknownWord
  rw [or_iff_right (by omega), or_iff_right (by omega), or_iff_right (by omega), or_iff_right (by omega),
    or_iff_right (by omega)]

/-- The rows of the table below 0x1000 (R96): of the words 00KK those that neither name a scroll nor one of seven KK. -/
theorem unknownWord_iff_of_lt {w : Opcode} (h : w.toNat < 0x1000) :
    Machine.UnknownWord w ↔ w.toNat / 256 % 16 = 0 ∧ w.toNat / 16 % 16 ≠ 0xC ∧
      w.toNat % 256 ∉ [0xE0, 0xEE, 0xFB, 0xFC, 0xFD, 0xFE, 0xFF] := by
  have hop : w.toNat / 4096 = 0 := by omega
  simp only [Machine.UnknownWord, hop, List.mem_cons, List.not_mem_nil, or_false, not_or]
  omega

/-- Settles O4: the table read row by row, each row under its major opcode. -/
theorem rejectedWordsAreTheUnknownTable : Obligations.RejectedWordsAreTheUnknownTable := by
  intro w
  show RejectsIff w (Machine.UnknownWord w) (decodeWord w)
  have hlt : w.toNat < 65536 := w.isLt
  unfold decodeWord
  split <;> simp only [opField_eq_iff, imp_false, BitVec.toNat_ofNat, Nat.reducePow, Nat.reduceMod] at *
  case h_1 hop =>
    have htable := unknownWord_iff_of_lt (w := w) (by omega)
    simp only [extractX_eq_iff]
    split
    · next hx => exact (rejectsIff_decodeSystem w).congr (htable.trans (and_iff_right hx))
    · next hx => exact rejectsIff_of_ok fun hu => hx (htable.mp hu).1
  case h_6 hop | h_10 hop =>
    have htable := unknownWord_iff_of_ge (w := w) (by omega)
    simp only [nField_eq_iff]
    split
    · next hn => exact rejectsIff_of_ok (by rw [htable]; simpa [hop] using hn)
    · next hn => exact rejectsIff_of_error (by rw [htable]; simpa [hop] using hn)
  case h_9 hop =>
    refine (rejectsIff_decodeAlu w).congr ((unknownWord_iff_of_ge (by omega)).trans ?_)
    simp [hop]
  case h_15 hop =>
    refine (rejectsIff_decodeKey w).congr ((unknownWord_iff_of_ge (by omega)).trans ?_)
    simp [hop]
  case h_16 =>
    have hop : w.toNat / 4096 = 15 := by omega
    refine (rejectsIff_decodeMisc w).congr ((unknownWord_iff_of_ge (by omega)).trans ?_)
    simp [hop]
  all_goals
    next hop => exact rejectsIff_of_ok (by rw [unknownWord_iff_of_ge (by omega)]; simp [hop])

/-- Settles O3: ten closed words. -/
theorem sampleWordsDecode : Obligations.SampleWordsDecode := by
  unfold Obligations.SampleWordsDecode
  decide

end Sys2Proof
end

section
/-! PROOFS. What each instruction answers (spec/30_encoding.md R100): the equations of the instructions whose equation stands nowhere above. -/

namespace Sys2Proof.Machine

/-! ## The 0-group -/

theorem exec_scd (n : BitVec 4) (s : State) :
    exec (.scd n) s = .next (s.setVb (VideoBuffer.scrollDown s.vb n.toNat)).signalFrame := rfl

theorem exec_exit (s : State) : exec .exit s = .next (s.raiseHalt (.finish s.instrAddr)) := rfl

theorem exec_low (s : State) : exec .low s = .next (s.switchMode .legacy) := rfl

theorem exec_high (s : State) : exec .high s = .next (s.switchMode .extended) := rfl

theorem exec_sys (nnn : Address) (s : State) : exec (.sys nnn) s = .next s := rfl

/-! ## Jumps, call and return -/

theorem exec_jp (nnn : Address) (s : State) : exec (.jp nnn) s = .next (s.setPc nnn) := rfl

theorem exec_jpV0 (nnn : Address) (s : State) :
    exec (.jpV0 nnn) s = .next (s.setPc (nnn + (s.reg 0).setWidth 12)) := rfl

theorem exec_call_of_some {s t : State} (h : s.push? = some t) (nnn : Address) :
    exec (.call nnn) s = .next (t.setPc nnn) := by simp only [exec, execCall, h]

theorem exec_call_of_none {s : State} (h : s.push? = none) (nnn : Address) :
    exec (.call nnn) s = .next (s.raiseHalt (.stackOverflow s.instrAddr s.sp.val)) := by simp only [exec, execCall, h]

theorem exec_ret_of_some {s t : State} (h : s.pop? = some t) : exec .ret s = .next t := by
  simp only [exec, execRet, h]

theorem exec_ret_of_none {s : State} (h : s.pop? = none) :
    exec .ret s = .next (s.raiseHalt (.stackUnderflow s.instrAddr s.sp.val)) := by simp only [exec, execRet, h]

/-! ## Arithmetic and logic -/

theorem exec_ldImm (x : Reg) (kk : Byte) (s : State) : exec (.ldImm x kk) s = .next (s.setReg x kk) := rfl

theorem exec_addImm (x : Reg) (kk : Byte) (s : State) :
    exec (.addImm x kk) s = .next (s.setReg x (s.reg x + kk)) := rfl

theorem exec_ldReg (x y : Reg) (s : State) : exec (.ldReg x y) s = .next (s.setReg x (s.reg y)) := rfl

theorem exec_orReg (x y : Reg) (s : State) : exec (.orReg x y) s = .next (s.setReg x (s.reg x ||| s.reg y)) := rfl

theorem exec_andReg (x y : Reg) (s : State) : exec (.andReg x y) s = .next (s.setReg x (s.reg x &&& s.reg y)) := rfl

theorem exec_xorReg (x y : Reg) (s : State) : exec (.xorReg x y) s = .next (s.setReg x (s.reg x ^^^ s.reg y)) := rfl

theorem exec_addReg (x y : Reg) (s : State) :
    exec (.addReg x y) s =
      .next (s.setResultAndFlag x (s.reg x + s.reg y) (carryFlag (s.reg x) (s.reg y))) := rfl

theorem exec_subReg (x y : Reg) (s : State) :
    exec (.subReg x y) s =
      .next (s.setResultAndFlag x (s.reg x - s.reg y) (notBorrowFlag (s.reg x) (s.reg y))) := rfl

theorem exec_subnReg (x y : Reg) (s : State) :
    exec (.subnReg x y) s =
      .next (s.setResultAndFlag x (s.reg y - s.reg x) (notBorrowFlag (s.reg y) (s.reg x))) := rfl

theorem exec_shrReg (x y : Reg) (s : State) :
    exec (.shrReg x y) s =
      .next (s.setResultAndFlag x (s.shiftSource x y >>> 1) (shiftedOutRight (s.shiftSource x y))) := rfl

theorem exec_shlReg (x y : Reg) (s : State) :
    exec (.shlReg x y) s =
      .next (s.setResultAndFlag x (s.shiftSource x y <<< 1) (shiftedOutLeft (s.shiftSource x y))) := rfl

theorem exec_rnd (x : Reg) (kk : Byte) (s : State) :
    exec (.rnd x kk) s = .next { s.setReg x (Config.randomByte s.draws &&& kk) with draws := s.draws + 1 } := rfl

/-! ## Index register, loads and stores, draw -/

theorem exec_ldFont (x : Reg) (s : State) : exec (.ldFont x) s = .next (s.setIndex (smallGlyphAddr (s.reg x))) := rfl

theorem exec_ldLargeFont (x : Reg) (s : State) :
    exec (.ldLargeFont x) s = .next (s.setIndex (largeGlyphAddr (s.reg x))) := rfl

theorem exec_storeBcd (x : Reg) (s : State) :
    exec (.storeBcd x) s =
      .next (s.guardAddrs (s.indexAddrs 3) (s.storeBytes s.i.toNat (bcdDigits (s.reg x)))) := rfl

theorem exec_storeRegs (x : Reg) (s : State) :
    exec (.storeRegs x) s =
      .next (s.guardAddrs (s.indexAddrs (x.val + 1))
        ((s.storeBytes s.i.toNat (s.regBlock x)).advanceIndex x)) := rfl

theorem exec_loadRegs (x : Reg) (s : State) :
    exec (.loadRegs x) s =
      .next (s.guardAddrs (s.indexAddrs (x.val + 1)) ((s.loadBlock x).advanceIndex x)) := rfl

theorem exec_drw (x y : Reg) (n : BitVec 4) (s : State) :
    exec (.drw x y n) s =
      .next (s.guardAddrs (s.indexAddrs (s.spriteBytes n)) (s.drawSprite x y n).signalFrame) := rfl

theorem exec_saveFlags_of_some {s : State} {x : Reg} {n : Fin 8} (h : s.hp48Last? x = some n) :
    exec (.saveFlags x) s = .next (s.saveHp48 n) := by simp only [exec, execSaveFlags, h]

theorem exec_saveFlags_of_none {s : State} {x : Reg} (h : s.hp48Last? x = none) :
    exec (.saveFlags x) s = .next (s.raiseHalt (.hp48Range s.instrAddr x.val)) := by
  simp only [exec, execSaveFlags, h]

theorem exec_loadFlags_of_some {s : State} {x : Reg} {n : Fin 8} (h : s.hp48Last? x = some n) :
    exec (.loadFlags x) s = .next (s.loadHp48 n) := by simp only [exec, execLoadFlags, h]

theorem exec_loadFlags_of_none {s : State} {x : Reg} (h : s.hp48Last? x = none) :
    exec (.loadFlags x) s = .next (s.raiseHalt (.hp48Range s.instrAddr x.val)) := by
  simp only [exec, execLoadFlags, h]

/-! ## Keys and timers -/

theorem exec_skp (x : Reg) (s : State) : exec (.skp x) s = .next (s.skipIf (s.keyIsDown (s.reg x))) := rfl

theorem exec_sknp (x : Reg) (s : State) : exec (.sknp x) s = .next (s.skipIf (!s.keyIsDown (s.reg x))) := rfl

theorem exec_waitKey_of_some {s : State} {k : Fin 16} (h : s.foundKey = some k) (x : Reg) :
    exec (.waitKey x) s = .next (s.setReg x (BitVec.ofNat 8 k.val)) := by simp only [exec, execWaitKey, h]

theorem exec_waitKey_of_none {s : State} (h : s.foundKey = none) (x : Reg) :
    exec (.waitKey x) s = .next (s.setPc (s.pc - 2#12)) := by simp only [exec, execWaitKey, h]

/-- Fx18 with 0 only sets ST (D14). -/
theorem exec_ldSound_of_zero {s : State} {x : Reg} (h : s.reg x = 0#8) :
    exec (.ldSound x) s = .next { s with st := s.reg x } := by
  simp only [exec, execLdSound, h, BitVec.toNat_ofNat, Nat.zero_mod, Nat.lt_irrefl, if_false]

/-- Fx18 with more than 0 also emits PlaySound (R276). -/
theorem exec_ldSound_of_ne_zero {s : State} {x : Reg} (h : s.reg x ≠ 0#8) :
    exec (.ldSound x) s = .next (State.emit { s with st := s.reg x } .playSound) := by
  have hpos : 0 < (s.reg x).toNat := Nat.pos_of_ne_zero fun h0 => h (BitVec.eq_of_toNat_eq h0)
  simp only [exec, execLdSound, hpos, if_true]

end Sys2Proof.Machine
end

section
/-! PROOFS. What an instruction can do to the state, said once for all 44 (spec/10_state.md R31 to R56; spec/60_exceptions.md R300 to R305), and the statements about every instruction that follow from it. -/

namespace Sys2Proof.Machine

/-- Everything that executing an instruction can do: it takes a halt, or it writes the fields that its own kind of
instruction writes. -/
inductive Effect : Instr → State → State → Prop
  /-- R300, R305. -/
  | halts {i s} (h : Halt) (hc : CauseOf i s h) : Effect i s (s.raiseHalt h)
  /-- R129. -/
  | nothing {s} (nnn : Address) : Effect (.sys nnn) s s
  /-- General registers alone. -/
  | regs {i s} (w : Vector Byte 16) (hw : ∀ r : Reg, w[r.val] ≠ s.v[r.val] → WritesReg i r) :
      Effect i s { s with v := w }
  /-- PC alone. -/
  | pc {i s} (a : Address) (hi : WritesPc i) : Effect i s { s with pc := a }
  /-- R151. -/
  | pushes {s} (nnn : Address) (stack : Vector Opcode 16) (sp : Fin 17)
      (hstack : (∀ k : Fin 16, (s.stack[k.val]).toNat < 4096) → ∀ k : Fin 16, (stack[k.val]).toNat < 4096)
      (hsp : s.config.stackOob = .wrap → sp.val < 16) :
      Effect (.call nnn) s { s with stack := stack, sp := sp, pc := nnn }
  /-- R152. -/
  | pops {s} (sp : Fin 17) (a : Address) (hsp : s.config.stackOob = .wrap → sp.val < 16) :
      Effect .ret s { s with sp := sp, pc := a }
  /-- I alone. -/
  | index {i s} (a : Address)
      (hi : (∃ nnn, i = .ldIndex nnn) ∨ ∃ x, i = .addIndex x ∨ i = .ldFont x ∨ i = .ldLargeFont x) :
      Effect i s { s with i := a }
  /-- R120 to R124. -/
  | frame {i s} (b : VideoBuffer) (hi : i = .cls ∨ i = .scr ∨ i = .scl ∨ ∃ n, i = .scd n) :
      Effect i s (s.setVb b).signalFrame
  /-- R126 to R128. -/
  | mode {i s} (m : Mode) (hi : i = .low ∨ i = .high) : Effect i s (s.switchMode m)
  /-- R254 to R257. -/
  | draws {s} (x y : Reg) (n : BitVec 4) (b : VideoBuffer) (flag : Byte) :
      Effect (.drw x y n) s ((s.setVb b).setReg vf flag).signalFrame
  /-- R196. -/
  | random {s} (x : Reg) (kk byte : Byte) : Effect (.rnd x kk) s { s.setReg x byte with draws := s.draws + 1 }
  /-- R275. -/
  | delay {s} (x : Reg) : Effect (.ldDelay x) s { s with dt := s.reg x }
  /-- Fx18 with 0 (D14). -/
  | silent {s} (x : Reg) : Effect (.ldSound x) s { s with st := s.reg x }
  /-- Fx18 with more than 0 (R276). -/
  | plays {s} (x : Reg) (hx : s.reg x ≠ 0#8) : Effect (.ldSound x) s (State.emit { s with st := s.reg x } .playSound)
  /-- R225. -/
  | storesBcd {s} (x : Reg) (m : Memory) (hm : Memory.wf s.config s.mem → Memory.wf s.config m) :
      Effect (.storeBcd x) s { s with mem := m }
  /-- R227. -/
  | storesRegs {s} (x : Reg) (m : Memory) (a : Address) (hm : Memory.wf s.config s.mem → Memory.wf s.config m) :
      Effect (.storeRegs x) s { s with mem := m, i := a }
  /-- R228. -/
  | loadsRegs {s} (x : Reg) (w : Vector Byte 16) (a : Address)
      (hw : ∀ r : Reg, w[r.val] ≠ s.v[r.val] → r ≤ x) : Effect (.loadRegs x) s { s with v := w, i := a }
  /-- R229. -/
  | saves {s} (x : Reg) (h : Vector Byte 8) : Effect (.saveFlags x) s { s with hp48 := h }

/-! ## The effects of the shared operations -/

/-- An instruction that writes one register, and names it as written. -/
theorem Effect.setReg {i : Instr} (s : State) {x : Reg} (b : Byte) (hi : WritesReg i x) : Effect i s (s.setReg x b) := by
  refine .regs _ fun r hr => ?_
  obtain rfl : r = x := by
    by_contra hne
    exact hr (s.setReg_keepsRegsBut x b r (by simpa using hne))
  exact hi

/-- An instruction that writes a result and the flag, and names both as written. -/
theorem Effect.setResultAndFlag {i : Instr} (s : State) {x : Reg} (a b : Byte) (hx : WritesReg i x)
    (hf : WritesReg i 15) : Effect i s (s.setResultAndFlag x a b) := by
  refine .regs _ fun r hr => ?_
  obtain rfl | rfl : r = x ∨ r = 15 := by
    by_contra hne
    exact hr (s.setResultAndFlag_keepsRegsBut x a b r (by simpa using hne))
  · exact hx
  · exact hf

theorem Effect.skipIf {i : Instr} (s : State) (b : Bool) (hi : WritesPc i) : Effect i s (s.skipIf b) := by
  rw [State.skipIf_eq]
  exact .pc _ hi

/-- An instruction that uses addresses through I and halts with the first refused one. -/
theorem Effect.guardAddrs {i : Instr} {s completed : State} (addrs : List Nat)
    (hi : (∃ x, i = .storeBcd x ∨ i = .storeRegs x ∨ i = .loadRegs x) ∨ ∃ x y n, i = .drw x y n)
    (hc : Effect i s completed) : Effect i s (s.guardAddrs addrs completed) := by
  obtain ⟨bad, -, -, hbad, h⟩ | h := s.guardAddrs_cases addrs completed <;> rw [h]
  · exact .halts _ ⟨rfl, hbad, hi⟩
  · exact hc

/-! ## Every instruction has one of the effects -/

theorem exec_call_effect (nnn : Address) (s : State) : ∃ t, exec (.call nnn) s = .next t ∧ Effect (.call nnn) s t := by
  obtain ⟨h, -, hsp⟩ | ⟨t, h, ht, hstack, -, hwrap⟩ := s.push?_cases
  · exact ⟨_, exec_call_of_none h nnn, .halts _ ⟨rfl, hsp, hsp, nnn, rfl⟩⟩
  · refine ⟨_, exec_call_of_some h nnn, ?_⟩
    rw [ht]
    refine .pushes nnn t.stack t.sp (fun hs k => ?_) fun hw => by rw [hwrap hw]; omega
    rw [hstack, Vector.getElem_set]
    split
    · rw [BitVec.toNat_setWidth_of_le (by decide)]; exact s.pc.isLt
    · exact hs k

theorem exec_ret_effect (s : State) : ∃ t, exec .ret s = .next t ∧ Effect .ret s t := by
  obtain ⟨h, -, hsp⟩ | ⟨t, h, ht, -, -, hwrap⟩ := s.pop?_cases
  · exact ⟨_, exec_ret_of_none h, .halts _ ⟨rfl, hsp, hsp, rfl⟩⟩
  · refine ⟨_, exec_ret_of_some h, ?_⟩
    rw [ht]
    exact .pops t.sp t.pc fun hw => by rw [hwrap hw]; omega

theorem exec_waitKey_effect (x : Reg) (s : State) : ∃ t, exec (.waitKey x) s = .next t ∧ Effect (.waitKey x) s t := by
  cases h : s.foundKey with
  | some k => exact ⟨_, exec_waitKey_of_some h x, .setReg s _ rfl⟩
  | none => exact ⟨_, exec_waitKey_of_none h x, .pc _ trivial⟩

theorem exec_saveFlags_effect (x : Reg) (s : State) :
    ∃ t, exec (.saveFlags x) s = .next t ∧ Effect (.saveFlags x) s t := by
  obtain ⟨h, -, hx⟩ | ⟨n, h, -⟩ := s.hp48Last?_cases x
  · exact ⟨_, exec_saveFlags_of_none h, .halts _ ⟨rfl, hx, x, rfl, .inl rfl⟩⟩
  · exact ⟨_, exec_saveFlags_of_some h, .saves x _⟩

theorem exec_loadFlags_effect (x : Reg) (s : State) :
    ∃ t, exec (.loadFlags x) s = .next t ∧ Effect (.loadFlags x) s t := by
  obtain ⟨h, -, hx⟩ | ⟨n, h, hn⟩ := s.hp48Last?_cases x
  · exact ⟨_, exec_loadFlags_of_none h, .halts _ ⟨rfl, hx, x, rfl, .inr rfl⟩⟩
  · refine ⟨_, exec_loadFlags_of_some h, .regs _ fun r hr => ?_⟩
    have hrn : r.val ≤ n.val := by
      by_contra hne
      exact hr (by simp [hne])
    exact ⟨Fin.le_def.mpr (by omega), by omega⟩

theorem exec_ldSound_effect (x : Reg) (s : State) : ∃ t, exec (.ldSound x) s = .next t ∧ Effect (.ldSound x) s t := by
  by_cases h : s.reg x = 0#8
  · exact ⟨_, exec_ldSound_of_zero h, .silent x⟩
  · exact ⟨_, exec_ldSound_of_ne_zero h, .plays x h⟩

theorem storeBytes_effect_bcd (s : State) (x : Reg) (xs : List Byte) :
    Effect (.storeBcd x) s (s.storeBytes s.i.toNat xs) := by
  rw [State.storeBytes_eq]
  exact .storesBcd x _ fun hm => State.storeBytes_wf hm _ _

theorem storeBytes_advanceIndex_effect (s : State) (x : Reg) (xs : List Byte) :
    Effect (.storeRegs x) s ((s.storeBytes s.i.toNat xs).advanceIndex x) := by
  rw [State.advanceIndex_eq, State.storeBytes_eq]
  exact .storesRegs x _ _ fun hm => State.storeBytes_wf hm _ _

theorem loadBlock_advanceIndex_effect (s : State) (x : Reg) :
    Effect (.loadRegs x) s ((s.loadBlock x).advanceIndex x) := by
  rw [State.advanceIndex_eq, State.loadBlock_eq]
  refine .loadsRegs x _ _ fun r hr => ?_
  by_contra hne
  exact hr ((s.reg_loadBlock x r).trans (if_neg hne))

/-- The inversion of `exec`: every instruction answers a next state, and that state is one of its effects. -/
theorem exec_effect (i : Instr) (s : State) : ∃ t, exec i s = .next t ∧ Effect i s t := by
  cases i with
  | cls => exact ⟨_, exec_cls s, .frame _ (by simp)⟩
  | scd n => exact ⟨_, exec_scd n s, .frame _ (by simp)⟩
  | scr => exact ⟨_, exec_scr s, .frame _ (by simp)⟩
  | scl => exact ⟨_, exec_scl s, .frame _ (by simp)⟩
  | exit => exact ⟨_, exec_exit s, .halts _ ⟨rfl, rfl⟩⟩
  | low => exact ⟨_, exec_low s, .mode _ (.inl rfl)⟩
  | high => exact ⟨_, exec_high s, .mode _ (.inr rfl)⟩
  | sys nnn => exact ⟨_, exec_sys nnn s, .nothing nnn⟩
  | jp nnn => exact ⟨_, exec_jp nnn s, .pc _ trivial⟩
  | jpV0 nnn => exact ⟨_, exec_jpV0 nnn s, .pc _ trivial⟩
  | call nnn => exact exec_call_effect nnn s
  | ret => exact exec_ret_effect s
  | seImm x kk => exact ⟨_, exec_seImm x kk s, .skipIf s _ trivial⟩
  | sneImm x kk => exact ⟨_, exec_sneImm x kk s, .skipIf s _ trivial⟩
  | seReg x y => exact ⟨_, exec_seReg x y s, .skipIf s _ trivial⟩
  | sneReg x y => exact ⟨_, exec_sneReg x y s, .skipIf s _ trivial⟩
  | skp x => exact ⟨_, exec_skp x s, .skipIf s _ trivial⟩
  | sknp x => exact ⟨_, exec_sknp x s, .skipIf s _ trivial⟩
  | ldImm x kk => exact ⟨_, exec_ldImm x kk s, .setReg s _ rfl⟩
  | addImm x kk => exact ⟨_, exec_addImm x kk s, .setReg s _ rfl⟩
  | ldReg x y => exact ⟨_, exec_ldReg x y s, .setReg s _ rfl⟩
  | orReg x y => exact ⟨_, exec_orReg x y s, .setReg s _ rfl⟩
  | andReg x y => exact ⟨_, exec_andReg x y s, .setReg s _ rfl⟩
  | xorReg x y => exact ⟨_, exec_xorReg x y s, .setReg s _ rfl⟩
  | ldFromDelay x => exact ⟨_, exec_ldFromDelay x s, .setReg s _ rfl⟩
  | addReg x y => exact ⟨_, exec_addReg x y s, .setResultAndFlag s _ _ (.inl rfl) (.inr rfl)⟩
  | subReg x y => exact ⟨_, exec_subReg x y s, .setResultAndFlag s _ _ (.inl rfl) (.inr rfl)⟩
  | subnReg x y => exact ⟨_, exec_subnReg x y s, .setResultAndFlag s _ _ (.inl rfl) (.inr rfl)⟩
  | shrReg x y => exact ⟨_, exec_shrReg x y s, .setResultAndFlag s _ _ (.inl rfl) (.inr rfl)⟩
  | shlReg x y => exact ⟨_, exec_shlReg x y s, .setResultAndFlag s _ _ (.inl rfl) (.inr rfl)⟩
  | rnd x kk => exact ⟨_, exec_rnd x kk s, .random x kk _⟩
  | ldIndex nnn => exact ⟨_, exec_ldIndex nnn s, .index _ (by simp)⟩
  | addIndex x => exact ⟨_, exec_addIndex x s, .index _ (by simp)⟩
  | ldFont x => exact ⟨_, exec_ldFont x s, .index _ (by simp)⟩
  | ldLargeFont x => exact ⟨_, exec_ldLargeFont x s, .index _ (by simp)⟩
  | storeBcd x => exact ⟨_, exec_storeBcd x s, .guardAddrs _ (by simp) (storeBytes_effect_bcd s x _)⟩
  | storeRegs x => exact ⟨_, exec_storeRegs x s, .guardAddrs _ (by simp) (storeBytes_advanceIndex_effect s x _)⟩
  | loadRegs x => exact ⟨_, exec_loadRegs x s, .guardAddrs _ (by simp) (loadBlock_advanceIndex_effect s x)⟩
  | drw x y n => exact ⟨_, exec_drw x y n s, .guardAddrs _ (by simp) (.draws x y n _ _)⟩
  | saveFlags x => exact exec_saveFlags_effect x s
  | loadFlags x => exact exec_loadFlags_effect x s
  | waitKey x => exact exec_waitKey_effect x s
  | ldDelay x => exact ⟨_, exec_ldDelay x s, .delay x⟩
  | ldSound x => exact exec_ldSound_effect x s

theorem effect_of_exec {i : Instr} {s t : State} (h : exec i s = .next t) : Effect i s t := by
  obtain ⟨u, hu, he⟩ := exec_effect i s
  obtain rfl : u = t := Host.Outcome.next.inj (hu.symm.trans h)
  exact he

/-! ## The writers of each field -/

variable {i : Instr} {s t : State}

theorem Effect.reg_writer (h : Effect i s t) (r : Reg) (hne : t.reg r ≠ s.reg r) : WritesReg i r := by
  cases h with
  | regs w hw => exact hw r hne
  | loadsRegs x w a hw => exact hw r hne
  | draws x y n b flag =>
    by_contra hr
    exact hne ((s.setVb b).setReg_keepsRegsBut vf flag r fun hm => hr (List.mem_singleton.mp hm))
  | random x kk byte =>
    by_contra hr
    exact hne (s.setReg_keepsRegsBut x byte r fun hm => hr (List.mem_singleton.mp hm))
  | _ => exact absurd rfl hne

theorem Effect.pc_writer (h : Effect i s t) (hne : t.pc ≠ s.pc) : WritesPc i := by
  cases h with
  | pc a hi => exact hi
  | pushes | pops => trivial
  | _ => exact absurd rfl hne

theorem Effect.index_writer (h : Effect i s t) (hne : t.i ≠ s.i) :
    (∃ nnn, i = .ldIndex nnn) ∨
      ∃ x, i = .addIndex x ∨ i = .ldFont x ∨ i = .ldLargeFont x ∨ i = .storeRegs x ∨ i = .loadRegs x := by
  cases h with
  | index a hi =>
    exact hi.imp_right fun ⟨x, hx⟩ => ⟨x, by rcases hx with rfl | rfl | rfl <;> simp⟩
  | storesRegs x | loadsRegs x => exact .inr ⟨x, by simp⟩
  | _ => exact absurd rfl hne

theorem Effect.stack_writer (h : Effect i s t) (hne : t.stack ≠ s.stack) : ∃ nnn, i = .call nnn := by
  cases h with
  | pushes nnn => exact ⟨nnn, rfl⟩
  | _ => exact absurd rfl hne

theorem Effect.sp_writer (h : Effect i s t) (hne : t.sp ≠ s.sp) : i = .ret ∨ ∃ nnn, i = .call nnn := by
  cases h with
  | pushes nnn => exact .inr ⟨nnn, rfl⟩
  | pops => exact .inl rfl
  | _ => exact absurd rfl hne

theorem Effect.hp48_writer (h : Effect i s t) (hne : t.hp48 ≠ s.hp48) : ∃ x, i = .saveFlags x := by
  cases h with
  | saves x => exact ⟨x, rfl⟩
  | _ => exact absurd rfl hne

theorem Effect.dt_writer (h : Effect i s t) (hne : t.dt ≠ s.dt) : ∃ x, i = .ldDelay x := by
  cases h with
  | delay x => exact ⟨x, rfl⟩
  | _ => exact absurd rfl hne

theorem Effect.st_writer (h : Effect i s t) (hne : t.st ≠ s.st) : ∃ x, i = .ldSound x := by
  cases h with
  | silent x | plays x => exact ⟨x, rfl⟩
  | _ => exact absurd rfl hne

theorem Effect.mode_writer (h : Effect i s t) (hne : t.mode ≠ s.mode) : i = .low ∨ i = .high := by
  cases h with
  | mode m hi => exact hi
  | _ => exact absurd rfl hne

theorem Effect.mem_writer (h : Effect i s t) (hne : t.mem ≠ s.mem) : ∃ x, i = .storeBcd x ∨ i = .storeRegs x := by
  cases h with
  | storesBcd x => exact ⟨x, .inl rfl⟩
  | storesRegs x => exact ⟨x, .inr rfl⟩
  | _ => exact absurd rfl hne

theorem Effect.draws_writer (h : Effect i s t) (hne : t.draws ≠ s.draws) : ∃ x kk, i = .rnd x kk := by
  cases h with
  | random x kk => exact ⟨x, kk, rfl⟩
  | _ => exact absurd rfl hne

/-- The seven video instructions (R48). -/
def IsVideo (i : Instr) : Prop :=
  i = .cls ∨ i = .scr ∨ i = .scl ∨ (∃ n, i = .scd n) ∨ i = .low ∨ i = .high ∨ ∃ x y n, i = .drw x y n

theorem isVideo_of_frame (hi : i = .cls ∨ i = .scr ∨ i = .scl ∨ ∃ n, i = .scd n) : IsVideo i := by
  rcases hi with rfl | rfl | rfl | ⟨n, rfl⟩ <;> simp [IsVideo]

theorem isVideo_of_mode (hi : i = .low ∨ i = .high) : IsVideo i := by
  rcases hi with rfl | rfl <;> simp [IsVideo]

theorem isVideo_drw (x y : Reg) (n : BitVec 4) : IsVideo (.drw x y n) := by simp [IsVideo]

theorem Effect.vb_writer (h : Effect i s t) (hne : t.vb ≠ s.vb) : IsVideo i := by
  cases h with
  | frame b hi => exact isVideo_of_frame hi
  | mode m hi => exact isVideo_of_mode hi
  | draws x y n => exact isVideo_drw x y n
  | _ => exact absurd rfl hne

/-- The halt-for-render flag is kept, or it is set by a video instruction (R48). -/
theorem Effect.haltForRender_writer (h : Effect i s t) :
    t.haltForRender = s.haltForRender ∨ t.haltForRender = true ∧ IsVideo i := by
  cases h with
  | frame b hi => exact .inr ⟨rfl, isVideo_of_frame hi⟩
  | mode m hi => exact .inr ⟨rfl, isVideo_of_mode hi⟩
  | draws x y n => exact .inr ⟨rfl, isVideo_drw x y n⟩
  | _ => exact .inl rfl

theorem Effect.events_writer (h : Effect i s t) :
    t.events = s.events ∨
      t.events = s.events ++ [.frameReady t.vb] ∧
        (i = .cls ∨ i = .scr ∨ i = .scl ∨ (∃ n, i = .scd n) ∨ ∃ x y n, i = .drw x y n) ∨
      t.events = s.events ++ [.playSound] ∧ ∃ x, i = .ldSound x ∧ s.reg x ≠ 0#8 := by
  cases h with
  | frame b hi => exact .inr (.inl ⟨rfl, by rcases hi with rfl | rfl | rfl | ⟨n, rfl⟩ <;> simp⟩)
  | draws x y n => exact .inr (.inl ⟨rfl, by simp⟩)
  | plays x hx => exact .inr (.inr ⟨rfl, x, rfl, hx⟩)
  | _ => exact .inl rfl

/-- The record of a halt is kept, or the instruction took a halt that its kind can raise and wrote nothing else
(R301, R305). -/
theorem Effect.halt_writer (h : Effect i s t) :
    (t.stopReq = s.stopReq ∧ t.halt = s.halt) ∨ ∃ h, t = s.raiseHalt h ∧ CauseOf i s h := by
  cases h with
  | halts h hc => exact .inr ⟨h, rfl, hc⟩
  | _ => exact .inl ⟨rfl, rfl⟩

/-- The fields that no instruction writes. -/
theorem Effect.kept (h : Effect i s t) :
    t.altShift = s.altShift ∧ t.altStoreLoad = s.altStoreLoad ∧ t.keyCur = s.keyCur ∧ t.keyPrev = s.keyPrev ∧
      t.lifecycle = s.lifecycle ∧ t.inTick = s.inTick ∧ t.stepCount = s.stepCount ∧ t.loading = s.loading ∧
      t.commands = s.commands ∧ t.arrivals = s.arrivals ∧ t.config = s.config := by
  cases h <;> exact ⟨rfl, rfl, rfl, rfl, rfl, rfl, rfl, rfl, rfl, rfl, rfl⟩

/-! ## The statements -/

/-- Settles O55: the inversion of `exec` without the effect. -/
theorem everyInstructionCompletes : Obligations.EveryInstructionCompletes := by
  intro i s
  obtain ⟨t, h, -⟩ := exec_effect i s
  exact ⟨t, h⟩

/-- Settles O56: the writers of each field, read off the effects. -/
theorem onlyTheNamedInstructionsWrite : Obligations.OnlyTheNamedInstructionsWrite := by
  intro i s t hexec
  have h := effect_of_exec hexec
  refine ⟨h.reg_writer, h.pc_writer, h.index_writer, fun hne => ?_, h.stack_writer, h.hp48_writer, h.dt_writer,
    h.st_writer, h.mode_writer, h.mem_writer, h.vb_writer, fun hne => h.haltForRender_writer.resolve_left hne,
    h.events_writer, fun hne => ?_, h.draws_writer, h.kept⟩
  · exact hne.elim h.sp_writer fun hst => .inr (h.stack_writer hst)
  · obtain ⟨hreq, hhalt⟩ | ⟨cause, rfl, hc⟩ := h.halt_writer
    · exact (hne.elim (· hreq) (· hhalt)).elim
    · exact ⟨rfl, cause, rfl, hc⟩

/-- Settles O57: an instruction that raised the stop request took a halt, which writes the record and nothing else. -/
theorem haltsWriteNothingElse : Obligations.HaltsWriteNothingElse := by
  intro i s t hexec hs ht
  obtain ⟨hreq, -⟩ | ⟨cause, rfl, -⟩ := (effect_of_exec hexec).halt_writer
  · exact absurd (hreq.symm.trans ht) (by simp [hs])
  · exact ⟨cause, rfl⟩

/-- A draw that completes sets the halt-for-render flag (R257). -/
theorem haltForRender_of_drw {x y : Reg} {n : BitVec 4} (hexec : exec (.drw x y n) s = .next t)
    (ht : t.stopReq = false) : t.haltForRender = true := by
  obtain rfl := Host.Outcome.next.inj hexec
  obtain ⟨bad, -, -, -, h⟩ | h := s.guardAddrs_cases (s.indexAddrs (s.spriteBytes n)) (s.drawSprite x y n).signalFrame
  · rw [h] at ht
    cases ht
  · rw [h]
    rfl

/-- A video instruction that completes sets the halt-for-render flag (R48). -/
theorem haltForRender_of_isVideo (hexec : exec i s = .next t) (ht : t.stopReq = false) (hi : IsVideo i) :
    t.haltForRender = true := by
  obtain rfl | rfl | rfl | ⟨n, rfl⟩ | rfl | rfl | ⟨x, y, n, rfl⟩ := hi
  on_goal 7 => exact haltForRender_of_drw hexec ht
  all_goals
    obtain rfl := Host.Outcome.next.inj hexec
    rfl

/-- Settles O58: the flag is kept or set by a video instruction, a video instruction that completes sets it, and the
set flag makes the step the last of its tick. -/
theorem videoInstructionsEndTheTick : Obligations.VideoInstructionsEndTheTick := by
  intro i s t hexec _ ht
  have h := effect_of_exec hexec
  refine ⟨⟨fun hr => ?_, ?_⟩, fun hr => ?_⟩
  · exact h.haltForRender_writer.imp (fun hk => hk.symm.trans hr) And.right
  · rintro (hs | hi)
    · exact h.haltForRender_writer.elim (fun hk => hk.trans hs) And.left
    · exact haltForRender_of_isVideo hexec ht hi
  · rw [State.afterInstr_last ht (.inl hr)]
    rfl

end Sys2Proof.Machine
end

section
/-! PROOFS. The invariant: it holds at reset, every step keeps it, and every tick ends (spec/10_state.md R38, R39, R54; spec/70_reset_and_hazards.md R350 to R364). -/

namespace Sys2Proof.Machine

variable {s t : State}

/-! ## The part of the invariant that speaks of RAM and the stack -/

/-- RAM and the stack are in their form. -/
structure State.DataInv (s : State) : Prop where
  memory : Memory.wf s.config s.mem
  stackEntries : ∀ k : Fin 16, (s.stack[k.val]).toNat < 4096
  ring : s.config.stackOob = .wrap → s.sp.val < 16

theorem State.Inv.data (h : s.Inv) : s.DataInv := ⟨h.memory, h.stackEntries, h.ring⟩

/-- No instruction brings RAM or the stack out of their form. -/
theorem Effect.dataInv {i : Instr} (h : Effect i s t) (hs : s.DataInv) : t.DataInv := by
  obtain ⟨hmem, hstack, hring⟩ := hs
  cases h with
  | storesBcd x m hm => exact ⟨hm hmem, hstack, hring⟩
  | storesRegs x m a hm => exact ⟨hm hmem, hstack, hring⟩
  | pushes nnn stack sp hst hsp => exact ⟨hmem, hst hstack, hsp⟩
  | pops sp a hsp => exact ⟨hmem, hstack, hsp⟩
  | _ => exact ⟨hmem, hstack, hring⟩

/-- The machine with the values a run starts with, whatever the parameters and the RAM. -/
theorem State.dataInv_of_reset {c : Config} {m : Memory} (hm : Memory.wf c m) :
    State.DataInv { State.reset with mem := m, config := c } :=
  ⟨hm, fun k => by simp [State.reset], fun _ => (by decide : (0 : Fin 17).val < 16)⟩

/-! ## Outside a tick -/

/-- The invariant of a state in which no tick is in progress. -/
theorem State.DataInv.inv_of_not_inTick (hd : s.DataInv) (hcount : s.stepCount ≤ 1024) (ht : s.inTick = false)
    (hp : s.lifecycle = .running → s.stopReq = false ∧ s.halt = none)
    (hr : s.loading.isSome = true ↔ s.lifecycle = .loadingROM) : s.Inv where
  memory := hd.memory
  stackEntries := hd.stackEntries
  ring := hd.ring
  tick h := absurd h (by simp [ht])
  count := hcount
  proceeding := hp
  request := hr

/-- Settles O52: RAM with nothing listed is canonical, the stack is empty, and no run exists. -/
theorem resetMeetsTheInvariant : Obligations.ResetMeetsTheInvariant :=
  (State.dataInv_of_reset (Memory.nil_wf _)).inv_of_not_inTick (by decide) rfl nofun (by decide)

theorem State.DataInv.stopSequence (hd : s.DataInv) (hcount : s.stepCount ≤ 1024) (hload : s.loading = none)
    (cause : Option Halt) : (s.stopSequence cause).Inv := by
  rw [State.stopSequence_eq]
  exact State.DataInv.inv_of_not_inTick ⟨hd.memory, hd.stackEntries, hd.ring⟩ hcount rfl nofun (by simp [hload])

theorem State.Inv.loading_eq_none (h : s.Inv) (hl : s.lifecycle ≠ .loadingROM) : s.loading = none := by
  rw [← Option.not_isSome_iff_eq_none, h.request]
  exact hl

theorem State.startRun_inv (s : State) {rom : List Byte} (hrom : rom.length ≤ romMax) (a b : Bool) :
    (s.startRun rom a b).Inv := by
  have hwf : Memory.wf s.config (Memory.loadRom s.config romBase rom []) :=
    Memory.loadRom_wf (Memory.nil_wf _) rom romBase (by simp only [romBase, romMax, ramSize] at *; omega)
  obtain ⟨hmem, hstack, hring⟩ := State.dataInv_of_reset hwf
  exact State.DataInv.inv_of_not_inTick ⟨hmem, hstack, hring⟩ (Nat.zero_le _) rfl (fun _ => ⟨rfl, rfl⟩) (by
    show false = true ↔ Lifecycle.running = .loadingROM
    decide)

theorem State.Inv.loadFailure (h : s.Inv) (ht : s.inTick = false) : s.loadFailure.Inv :=
  State.DataInv.inv_of_not_inTick ⟨h.memory, h.stackEntries, h.ring⟩ h.count ht nofun (by
    show false = true ↔ Lifecycle.stopped = .loadingROM
    decide)

/-- The load ends in a run or in a failure, and keeps the invariant either way (R351, R352). -/
theorem State.Inv.finishLoad (h : s.Inv) (ht : s.inTick = false) : s.finishLoad.Inv := by
  unfold State.finishLoad
  split
  · split
    · next hrom => exact s.startRun_inv hrom _ _
    · exact h.loadFailure ht
  · exact h.loadFailure ht
  · exact h.loadFailure ht

/-! ## The host's commands -/

theorem State.Inv.beginLoad (h : s.Inv) (ht : s.inTick = false) (r : LoadRequest) : (s.beginLoad r).Inv :=
  State.DataInv.inv_of_not_inTick ⟨h.memory, h.stackEntries, h.ring⟩ h.count ht nofun (by
    show true = true ↔ Lifecycle.loadingROM = .loadingROM
    decide)

theorem State.Inv.commandRun (h : s.Inv) (ht : s.inTick = false) (rom : Option Rom) (a b : Option Bool) :
    (s.commandRun rom a b).Inv := by
  unfold State.commandRun
  split
  · exact h.beginLoad ht _
  · exact h

theorem State.Inv.commandStop (h : s.Inv) : s.commandStop.Inv := by
  unfold State.commandStop
  split
  · next hl => exact h.data.stopSequence h.count (h.loading_eq_none (by simp [hl])) _
  · exact h

theorem State.Inv.commandSetSettings (h : s.Inv) (a b : Option Bool) : (s.commandSetSettings a b).Inv := by
  unfold State.commandSetSettings
  split
  · exact ⟨h.memory, h.stackEntries, h.ring, h.tick, h.count, h.proceeding, h.request⟩
  · exact h

theorem State.Inv.commandSendInput (h : s.Inv) (k : Option Nat) (x : Option KeyState) :
    (s.commandSendInput k x).Inv := by
  unfold State.commandSendInput
  split
  · split
    · exact ⟨h.memory, h.stackEntries, h.ring, h.tick, h.count, h.proceeding, h.request⟩
    · exact h
  · exact h

theorem State.Inv.applyCommand (h : s.Inv) (ht : s.inTick = false) (c : Command) : (s.applyCommand c).Inv := by
  cases c with
  | run rom a b => exact h.commandRun ht rom a b
  | stop => exact h.commandStop
  | setSettings a b => exact h.commandSetSettings a b
  | sendInput k x => exact h.commandSendInput k x

/-- The invariant says nothing of the host's channel. -/
theorem State.Inv.withChannel (h : s.Inv) (commands : List Command) (arrivals : List (List Command)) :
    State.Inv { s with commands := commands, arrivals := arrivals } :=
  ⟨h.memory, h.stackEntries, h.ring, h.tick, h.count, h.proceeding, h.request⟩

/-- Between ticks the oldest pending command is applied first (R364). -/
theorem State.betweenTicks_of_cons {c : Command} {rest : List Command} (h : s.commands = c :: rest) :
    s.betweenTicks = State.applyCommand { s with commands := rest } c := by simp only [State.betweenTicks, h]

/-- While Stopped the oldest pending command is applied first (R350). -/
theorem State.idle_of_cons {c : Command} {rest : List Command} (h : s.commands = c :: rest) :
    s.idle = State.applyCommand { s with commands := rest } c := by simp only [State.idle, h]

theorem State.Inv.idle (h : s.Inv) (ht : s.inTick = false) : s.idle.Inv := by
  cases hc : s.commands with
  | nil =>
    rw [State.idle_of_none hc]
    exact h.withChannel _ _
  | cons c rest =>
    rw [State.idle_of_cons hc]
    exact (h.withChannel rest s.arrivals).applyCommand ht c

theorem State.Inv.betweenTicks (h : s.Inv) (ht : s.inTick = false) (hl : s.lifecycle = .running) :
    s.betweenTicks.Inv := by
  cases hc : s.commands with
  | nil =>
    rw [State.betweenTicks_of_none hc]
    exact ⟨h.memory, h.stackEntries, h.ring, fun _ => ⟨hl, Nat.zero_lt_succ _, rfl⟩, Nat.zero_le _, h.proceeding, h.request⟩
  | cons c rest =>
    rw [State.betweenTicks_of_cons hc]
    exact (h.withChannel rest s.arrivals).applyCommand ht c

/-! ## Inside a tick -/

/-- The last step of a tick, field by field (R325, R361). -/
theorem State.afterInstr_last_eq (h : t.stopReq = false) (hc : t.haltForRender = true ∨ 1024 ≤ t.stepCount + 1) :
    t.afterInstr = { t with
      keyCur := t.inputUpdate.keyCur, keyPrev := t.inputUpdate.keyCur, stepCount := t.stepCount + 1, inTick := false,
      dt := decremented t.dt, st := decremented t.st,
      events := t.events ++ (if t.st = 1#8 then [.stopSound] else []) } := by
  rw [State.afterInstr_last h hc, State.inputUpdate_eq, State.endTick, State.timerStep_eq]

/-- A step of a tick that goes on, field by field (R325, R361). -/
theorem State.afterInstr_more_eq (h : t.stopReq = false)
    (hc : ¬ (t.haltForRender = true ∨ 1024 ≤ t.stepCount + 1)) :
    t.afterInstr = { t with
      keyCur := t.inputUpdate.keyCur, keyPrev := t.inputUpdate.keyCur, stepCount := t.stepCount + 1 } := by
  rw [State.afterInstr_more h hc, State.inputUpdate_eq]

/-- What holds between an instruction of a tick and what follows it, when `n` steps of the tick are counted: the
invariant, but that the instruction may have taken a halt or set the halt-for-render flag. -/
structure State.MidStep (n : Nat) (s : State) : Prop where
  data : s.DataInv
  running : s.lifecycle = .running
  inTick : s.inTick = true
  count : s.stepCount = n
  noRequest : s.loading = none
  proceeding : s.stopReq = false → s.halt = none

theorem State.Inv.midStep (h : s.Inv) (ht : s.inTick = true) : State.MidStep s.stepCount s where
  data := h.data
  running := (h.tick ht).1
  inTick := ht
  count := rfl
  noRequest := h.loading_eq_none (by simp [(h.tick ht).1])
  proceeding _ := (h.proceeding (h.tick ht).1).2

theorem State.MidStep.advancePc {n : Nat} (h : s.MidStep n) : s.advancePc.MidStep n :=
  ⟨⟨h.data.memory, h.data.stackEntries, h.data.ring⟩, h.running, h.inTick, h.count, h.noRequest, h.proceeding⟩

theorem State.MidStep.raiseHalt {n : Nat} (h : s.MidStep n) (cause : Halt) : (s.raiseHalt cause).MidStep n :=
  ⟨⟨h.data.memory, h.data.stackEntries, h.data.ring⟩, h.running, h.inTick, h.count, h.noRequest, nofun⟩

theorem State.MidStep.effect {n : Nat} {i : Instr} (h : s.MidStep n) (he : Effect i s t) : t.MidStep n := by
  obtain ⟨-, -, -, -, hlife, htick, hcount, hload, -, -, -⟩ := he.kept
  refine ⟨he.dataInv h.data, hlife.trans h.running, htick.trans h.inTick, hcount.trans h.count,
    hload.trans h.noRequest, fun hreq => ?_⟩
  obtain ⟨hr, hh⟩ | ⟨cause, rfl, -⟩ := he.halt_writer
  · exact hh.trans (h.proceeding (hr.symm.trans hreq))
  · cases hreq

/-- The instruction at PC answers a next state, whatever the word there is (R96, R100, R304). -/
theorem State.MidStep.instruction {n : Nat} (h : s.MidStep n) : ∃ t, s.instruction = .next t ∧ t.MidStep n := by
  cases hf : s.fetchWord with
  | error bad => exact ⟨_, State.instruction_of_bad hf, h.raiseHalt _⟩
  | ok w =>
    cases hd : decodeWord w with
    | error e => exact ⟨_, State.instruction_of_unknown hf hd, h.advancePc.raiseHalt _⟩
    | ok i =>
      obtain ⟨t, ht, he⟩ := exec_effect i s.advancePc
      exact ⟨t, (State.instruction_of_decode hf hd).trans ht, h.advancePc.effect he⟩

/-- What follows an instruction restores the invariant, and the tick has ended or has one more step counted. -/
theorem State.MidStep.afterInstr {n : Nat} (h : s.MidStep n) (hn : n < 1024) :
    s.afterInstr.Inv ∧ (s.afterInstr.inTick = false ∨ s.afterInstr.stepCount = n + 1) := by
  obtain ⟨⟨hmem, hstack, hring⟩, hrun, -, rfl, hload, hproc⟩ := h
  have hrequest : s.loading.isSome = true ↔ s.lifecycle = .loadingROM := by simp [hload, hrun]
  cases hreq : s.stopReq with
  | true =>
    rw [State.afterInstr_halted hreq]
    exact ⟨State.DataInv.stopSequence ⟨hmem, hstack, hring⟩ (by omega) hload _, .inl (by rw [State.stopSequence_eq])⟩
  | false =>
    by_cases hlast : s.haltForRender = true ∨ 1024 ≤ s.stepCount + 1
    · rw [State.afterInstr_last_eq hreq hlast]
      exact ⟨State.DataInv.inv_of_not_inTick ⟨hmem, hstack, hring⟩ hn rfl (fun _ => ⟨hreq, hproc hreq⟩) hrequest,
        .inl rfl⟩
    · rw [State.afterInstr_more_eq hreq hlast]
      have htick : s.lifecycle = .running ∧ s.stepCount + 1 < 1024 ∧ s.haltForRender = false :=
        ⟨hrun, by omega, by simp_all⟩
      exact ⟨⟨hmem, hstack, hring, fun _ => htick, hn, fun _ => ⟨hreq, hproc hreq⟩, hrequest⟩, .inr rfl⟩

theorem step_in_tick_inv (h : s.Inv) (ht : s.inTick = true) :
    ∃ t, step s = .next t ∧ t.Inv ∧ (t.inTick = false ∨ t.stepCount = s.stepCount + 1) := by
  obtain ⟨hl, hc, -⟩ := h.tick ht
  obtain ⟨t, hexec, hmid⟩ := (h.midStep ht).instruction
  exact ⟨_, by rw [step_in_tick ht hl hc, hexec], hmid.afterInstr hc⟩

/-! ## The statements -/

/-- Settles O53: one case for each phase of the machine. -/
theorem everyStepKeepsTheInvariant : Obligations.EveryStepKeepsTheInvariant := by
  intro s h
  cases ht : s.inTick with
  | true =>
    obtain ⟨t, hstep, hinv, -⟩ := step_in_tick_inv h ht
    exact ⟨t, hstep, hinv⟩
  | false =>
    cases hl : s.lifecycle with
    | running => exact ⟨_, step_between ht hl, h.betweenTicks ht hl⟩
    | loadingROM => exact ⟨_, step_loading ht hl, h.finishLoad ht⟩
    | stopped => exact ⟨_, step_stopped ht hl, h.idle ht⟩

theorem core_run_succ (h : step s = .next t) (k : Nat) : core.run (k + 1) s = core.run k t := by
  simp only [Host.Core.run, show core.step s = .next t from h]

/-- Settles O54: induction on the steps that the tick still has; each step ends it or counts one more. -/
theorem everyTickEnds : Obligations.EveryTickEnds := by
  intro s h ht
  induction hleft : 1024 - s.stepCount generalizing s with
  | zero =>
    have hcount := (h.tick ht).2.1
    omega
  | succ left ih =>
    obtain ⟨t, hstep, hinv, hnext⟩ := step_in_tick_inv h ht
    cases htick : t.inTick with
    | false => exact ⟨1, t, by omega, by omega, core_run_succ hstep 0, htick⟩
    | true =>
      have hcount : t.stepCount = s.stepCount + 1 := hnext.resolve_left (by simp [htick])
      obtain ⟨k, u, hk, -, hrun, hu⟩ := ih t hinv htick (by omega)
      exact ⟨k + 1, u, by omega, by omega, (core_run_succ hstep k).trans hrun, hu⟩

end Sys2Proof.Machine
end

section
/-! PROOFS. The fetch, the step inside a tick, what follows an instruction, and the two clocks of the tick: the keypad update and the timer step (spec/20_memory.md R74, R76; spec/30_encoding.md R96, R100; spec/60_exceptions.md R300 to R327; spec/70_reset_and_hazards.md R357 to R362). -/

namespace Sys2Proof.Machine

variable {s t : State}

/-! ## Fetch -/

/-- Of two bytes put together the first is the high one. -/
theorem append_bytes_toNat (hi lo : Byte) : (hi ++ lo).toNat = 256 * hi.toNat + lo.toNat := by
  rw [BitVec.toNat_append, ← Nat.shiftLeft_add_eq_or_of_lt lo.isLt, Nat.shiftLeft_eq]
  omega

theorem State.fetchWord_refused (hp : s.config.addrOob = .fault) (hpc : s.pc = 0xFFF#12) :
    s.fetchWord = .error 4096 := by
  simp [State.fetchWord, State.firstBadAddr, hp, hpc, ramSize]

/-- Settles O5: a fetch that no policy refuses reads the two bytes, and an address reads as its value modulo 4096. -/
theorem fetchReadsTheHighByteFirst : Obligations.FetchReadsTheHighByteFirst := by
  intro s h
  obtain ⟨hp, hpc, -⟩ | hf := s.fetchWord_cases
  · simp [hp, hpc] at h
  · refine ⟨_, hf, ?_⟩
    rw [append_bytes_toNat, ← s.readByte_wrapAddr (s.pc.toNat + 1)]
    rfl

/-! ## The step inside a tick -/

/-- Settles O6: the step runs the instruction at PC, which executes what the word decodes to with PC advanced. -/
theorem stepRunsTheDecodedInstruction : Obligations.StepRunsTheDecodedInstruction := by
  intro s w i ht hl hc hf hd
  rw [step_in_tick ht hl hc, State.instruction_of_decode hf hd]
  rfl

@[simp] theorem State.instrAddr_advancePc (s : State) : s.advancePc.instrAddr = s.pc := by
  simp [State.instrAddr]

/-- A step whose instruction takes a halt, in the state `t`, ends the run: it records the halt and performs the stop
sequence, and nothing else (R300, R357). -/
theorem step_of_raiseHalt {h : Halt} (ht : s.inTick = true) (hl : s.lifecycle = .running) (hc : s.stepCount < 1024)
    (hi : s.instruction = .next (t.raiseHalt h)) :
    step s = .next { t with
      vb := VideoBuffer.clear, halt := some h, stopReq := true, lifecycle := .stopped, inTick := false,
      events := t.events ++ (if h.isFatal then [.error h] else []) ++
        [.frameReady VideoBuffer.clear, .stateChanged .stopped] } := by
  rw [step_in_tick ht hl hc, hi]
  simp only [State.afterInstr_halted (t.raiseHalt_stopReq h), State.stopSequence_eq]
  rfl

/-- Settles O9: the table's words decode to no instruction, and the halt that names the word ends the run. -/
theorem unknownWordEndsTheRun : Obligations.UnknownWordEndsTheRun := by
  intro s w ht hl hc hf hw
  have hdecode := (rejectedWordsAreTheUnknownTable w).1 hw
  have hi : s.instruction = .next (s.advancePc.raiseHalt (.unknownOpcode w s.pc ((s.pc.toNat : Int) - 512))) := by
    rw [State.instruction_of_unknown hf hdecode, State.unknownOpcodeHalt, State.instrAddr_advancePc]
    rfl
  exact ⟨_, step_of_raiseHalt ht hl hc hi, rfl, by simp [Halt.isFatal], rfl⟩

/-- Settles O10: the fetch is refused whatever the bytes are, and the halt that names the address ends the run. -/
theorem fetchPastRamEndsTheRun : Obligations.FetchPastRamEndsTheRun := by
  intro s ht hl hc hp hpc
  have hi : s.instruction = .next (s.raiseHalt (.addrRange 0xFFF#12 0x1000)) := by
    rw [State.instruction_of_bad (State.fetchWord_refused hp hpc), State.fetchHalt, hpc]
  exact ⟨_, step_of_raiseHalt ht hl hc hi, by simp [Halt.isFatal], rfl⟩

/-- Settles O11: the word 00FD is EXIT, whose halt ends the run and is not fatal. -/
theorem exitEndsTheRunWithoutError : Obligations.ExitEndsTheRunWithoutError := by
  refine ⟨fun s => ⟨_, exec_exit s, rfl⟩, fun s ht hl hc hf => ?_⟩
  have hi : s.instruction = .next (s.advancePc.raiseHalt (.finish s.pc)) := by
    rw [State.instruction_of_decode hf (by decide : decodeWord 0x00FD#16 = .ok .exit), exec_exit,
      State.instrAddr_advancePc]
  exact ⟨_, step_of_raiseHalt ht hl hc hi, rfl, rfl, by simp [Halt.isFatal], rfl, rfl, rfl, rfl, rfl⟩

/-! ## What follows an instruction -/

/-- Every halt but FINISH is fatal (R301, R302). -/
theorem Halt.isFatal_eq (h : Halt) : h.isFatal = decide (h.code ≠ 0) := by cases h <;> rfl

/-- Settles O7: the step is the last of its tick or the tick goes on, and either form gives every field. -/
theorem afterAnInstructionKeysCountAndTimers : Obligations.AfterAnInstructionKeysCountAndTimers := by
  intro t hreq
  by_cases hlast : t.haltForRender = true ∨ 1024 ≤ t.stepCount + 1
  · rw [State.afterInstr_last_eq hreq hlast]
    refine ⟨rfl, t.inputUpdate_keyCur, rfl, fun _ => ⟨rfl, decremented_toNat _, decremented_toNat _, ?_⟩,
      fun h => absurd hlast h, rfl⟩
    simp only [← BitVec.toNat_inj (x := t.st), BitVec.toNat_ofNat, Nat.reducePow, Nat.reduceMod]
  · rw [State.afterInstr_more_eq hreq hlast]
    exact ⟨rfl, t.inputUpdate_keyCur, rfl, fun h => absurd h hlast, fun _ => ⟨rfl, rfl, rfl, rfl⟩, rfl⟩

/-- Settles O8: the stop sequence, field by field. -/
theorem afterAHaltOnlyTheStopSequence : Obligations.AfterAHaltOnlyTheStopSequence := by
  intro t h hreq hhalt
  rw [State.afterInstr_halted hreq, State.stopSequence_eq]
  refine ⟨VideoBuffer.getPixel_clear, VideoBuffer.payload_clear, ?_, rfl⟩
  by_cases hcode : h.code = 0 <;> simp [hhalt, Halt.isFatal_eq, hcode]

/-! ## The timers -/

/-- The sound timer after one more step, and the event of that step. -/
theorem State.timerStep_sound (s : State) :
    s.timerStep.st.toNat = s.st.toNat - 1 ∧
      s.timerStep.events = s.events ++ (if s.st.toNat = 1 then [.stopSound] else []) := by
  rw [State.timerStep_eq]
  refine ⟨decremented_toNat _, ?_⟩
  simp only [← BitVec.toNat_inj (x := s.st), BitVec.toNat_ofNat, Nat.reducePow, Nat.reduceMod]

/-- Settles O41: induction on the steps; the step from 1 to 0 is the one that emits. -/
theorem soundTimerStopsOnceAtZero : Obligations.SoundTimerStopsOnceAtZero := by
  intro s k
  induction k with
  | zero => exact ⟨rfl, by rw [Function.iterate_zero_apply, if_neg (by omega), List.append_nil]⟩
  | succ k ih =>
    obtain ⟨ihst, ihevents⟩ := ih
    obtain ⟨hst, hevents⟩ := (State.timerStep^[k] s).timerStep_sound
    rw [Function.iterate_succ_apply']
    refine ⟨by omega, ?_⟩
    rw [hevents, ihevents, ihst, List.append_assoc]
    congr 1
    obtain hlt | heq | hgt := lt_trichotomy s.st.toNat (k + 1)
    · rw [if_neg (by omega : ¬ s.st.toNat - k = 1), List.append_nil]
      exact if_congr (by omega) rfl rfl
    · rw [if_neg (by omega), if_pos (by omega), if_pos (by omega), List.nil_append]
    · rw [if_neg (by omega), if_neg (by omega), if_neg (by omega), List.append_nil]

/-! ## The keypad update -/

/-- The update leaves the same state in KeyCur and KeyPrev (D11). -/
theorem State.inputUpdate_key {k : Fin 16} {prev cur : KeyState} (hp : s.keyPrev[k.val] = prev)
    (hc : s.keyCur[k.val] = cur) :
    s.inputUpdate.keyPrev[k.val] = updatedKey prev cur ∧ s.inputUpdate.keyCur[k.val] = updatedKey prev cur := by
  have h := s.inputUpdate_keyCur k
  rw [hp, hc] at h
  exact ⟨h, h⟩

/-- Settles O42: the updates take the key to Released, then to Up, and an Up key stays Up. -/
theorem keyReleaseIsSeenOnce : Obligations.KeyReleaseIsSeenOnce := by
  intro s k hp hc
  have hreleased := State.inputUpdate_key hp hc
  have hup : ∀ m : Nat, (State.inputUpdate^[m + 2] s).keyPrev[k.val] = .up ∧
      (State.inputUpdate^[m + 2] s).keyCur[k.val] = .up := by
    intro m
    induction m with
    | zero => exact State.inputUpdate_key hreleased.1 hreleased.2
    | succ m ih =>
      rw [Function.iterate_succ_apply']
      exact State.inputUpdate_key ih.1 ih.2
  exact ⟨hreleased.2, fun m => (hup m).2⟩

end Sys2Proof.Machine
end

section
/-! PROOFS. The display instructions that are left: the scroll down and the mode switches (spec/40_system_display.md R124, R126 to R128). -/

namespace Sys2Proof.Machine

theorem VideoBuffer.scrollDown_zero (vb : VideoBuffer) : VideoBuffer.scrollDown vb 0 = vb :=
  VideoBuffer.ext_getPixel fun x y _ hy => by simp [VideoBuffer.getPixel_scrollDown vb 0 hy]

/-- Settles O15: a cell after the scroll is read by the law of `scrollDown`, and the rest is the signalled frame. -/
theorem scdMovesTheBufferDown : Obligations.ScdMovesTheBufferDown := by
  intro n s
  refine ⟨_, exec_scd n s, fun x y _ hy => ?_, ?_, s.setVb_signalFrame_spec _⟩
  · simp [VideoBuffer.getPixel_scrollDown s.vb n.toNat hy]
  · rintro rfl
    exact VideoBuffer.scrollDown_zero s.vb

/-- Settles O16: both instructions are `switchMode`, whose buffer is the cleared one. -/
theorem modeSwitchesClearWithoutAFrame : Obligations.ModeSwitchesClearWithoutAFrame := fun s =>
  ⟨⟨_, exec_low s, rfl, VideoBuffer.getPixel_clear, rfl, rfl, keepsRam_of_mem rfl rfl⟩,
    ⟨_, exec_high s, rfl, VideoBuffer.getPixel_clear, rfl, rfl, keepsRam_of_mem rfl rfl⟩⟩

end Sys2Proof.Machine
end

section
/-! PROOFS. Jumps, call and return (spec/41_control_flow.md R150 to R152, R158; spec/40_system_display.md R129). -/

namespace Sys2Proof.Machine

variable {s : State}

/-- Settles O17: the jumps are `setPc`, and the sum of Bnnn wraps as an address does. -/
theorem jumpsSetPcAndSysDoesNothing : Obligations.JumpsSetPcAndSysDoesNothing := by
  intro nnn s
  refine ⟨exec_sys nnn s, ⟨_, exec_jp nnn s, rfl, s.setPc_onlyPc _⟩, ⟨_, exec_jpV0 nnn s, ?_, s.setPc_onlyPc _⟩⟩
  rw [State.setPc_pc, address_add_byte_toNat]

/-- A call that does not overflow, whatever the policy (R151). -/
theorem exec_call_of_lt (nnn : Address) (h : s.sp.val < 16) :
    ∃ t, exec (.call nnn) s = .next t ∧ t.pc = nnn ∧
      (s.config.stackOob = .fault → t.sp.val = s.sp.val + 1) ∧
      (s.config.stackOob = .wrap → t.sp.val = (s.sp.val + 1) % 16) ∧
      (t.stack[s.sp.val]).toNat = s.pc.toNat ∧
      (∀ j : Fin 16, j.val ≠ s.sp.val → t.stack[j.val] = s.stack[j.val]) ∧
      t = { s with pc := t.pc, sp := t.sp, stack := t.stack } ∧ KeepsRegsBut s t [] ∧ KeepsRam s t := by
  obtain ⟨-, -, hfull⟩ | ⟨t, hpush, ht, hstack, hfault, hwrap⟩ := s.push?_cases
  · omega
  · have hmod : s.sp.val % 16 = s.sp.val := Nat.mod_eq_of_lt h
    refine ⟨_, exec_call_of_some hpush nnn, rfl, fun hp => (hfault hp).2, hwrap, ?_, fun j hj => ?_, ?_⟩
    · simp only [State.setPc_stack, hstack, hmod, Vector.getElem_set_self,
        BitVec.toNat_setWidth_of_le (by decide : 12 ≤ 16)]
    · simp only [State.setPc_stack, hstack, hmod]
      exact Vector.getElem_set_ne _ _ hj.symm
    · rw [ht]
      exact ⟨rfl, keepsRegs_of_v rfl, keepsRam_of_mem rfl rfl⟩

/-- Settles O18: a call that does not overflow gives both policies' clauses; a full stack is refused under `fault`. -/
theorem callPushesTheReturnAddress : Obligations.CallPushesTheReturnAddress := by
  intro nnn s
  refine ⟨fun hp h => ?_, fun hp h => ?_, fun hp h => ?_⟩
  · obtain ⟨t, hexec, hpc, hsp, -, htop, hrest, hkeep⟩ := exec_call_of_lt nnn h
    exact ⟨t, hexec, hpc, hsp hp, htop, hrest, hkeep⟩
  · obtain ⟨t, hexec, hpc, -, hsp, htop, hrest, hkeep⟩ := exec_call_of_lt nnn h
    exact ⟨t, hexec, hpc, hsp hp, htop, hrest, hkeep⟩
  · obtain ⟨hpush, -, -⟩ | ⟨t, -, -, -, hfault, -⟩ := s.push?_cases
    · exact ⟨_, exec_call_of_none hpush nnn, by rw [h]; rfl⟩
    · have := (hfault hp).1
      omega

/-- A return that does not underflow, whatever the policy (R152). -/
theorem exec_ret_of_pos (h : s.config.stackOob = .fault → 0 < s.sp.val) :
    ∃ t, exec .ret s = .next t ∧
      (s.config.stackOob = .fault → t.sp.val = s.sp.val - 1) ∧
      (s.config.stackOob = .wrap → t.sp.val = (s.sp.val + 15) % 16) ∧
      t.pc.toNat = (s.stack[(s.sp.val + 15) % 16]'(by omega)).toNat % 4096 ∧
      t = { s with pc := t.pc, sp := t.sp } ∧ KeepsRegsBut s t [] ∧ KeepsRam s t := by
  obtain ⟨-, hp, hempty⟩ | ⟨t, hpop, ht, hpc, hfault, hwrap⟩ := s.pop?_cases
  · have := h hp
    omega
  · refine ⟨t, exec_ret_of_some hpop, fun hp => (hfault hp).2, hwrap, by rw [hpc, BitVec.toNat_setWidth], ?_⟩
    rw [ht]
    exact ⟨rfl, keepsRegs_of_v rfl, keepsRam_of_mem rfl rfl⟩

/-- Settles O19: a return that does not underflow gives both policies' clauses; an empty stack is refused under
`fault`. -/
theorem retPopsTheReturnAddress : Obligations.RetPopsTheReturnAddress := by
  intro s
  refine ⟨fun hp h => ?_, fun hp h => ?_, fun hp h => ?_⟩
  · obtain ⟨t, hexec, hsp, -, hpc, hkeep⟩ := exec_ret_of_pos fun _ => h
    have htop : (s.sp.val + 15) % 16 = s.sp.val - 1 := by omega
    simp only [htop] at hpc
    exact ⟨t, hexec, hsp hp, hpc, hkeep⟩
  · obtain ⟨t, hexec, -, hsp, hpc, hkeep⟩ := exec_ret_of_pos (s := s) fun hf => by simp [hp] at hf
    exact ⟨t, hexec, hsp hp, hpc, hkeep⟩
  · obtain ⟨hpop, -, -⟩ | ⟨t, -, -, -, hfault, -⟩ := s.pop?_cases
    · exact ⟨_, exec_ret_of_none hpop, by rw [h]; rfl⟩
    · have := (hfault hp).1
      omega

end Sys2Proof.Machine
end

section
/-! PROOFS. Register loads, arithmetic, logic, shifts and the random byte (spec/42_alu.md R180 to R196). -/

namespace Sys2Proof.Machine

/-! ## The two ways to write registers -/

/-- A write of one register: what it holds then, and that nothing else changed. -/
theorem State.setReg_spec (s : State) (x : Reg) (b : Byte) :
    (s.setReg x b).reg x = b ∧ KeepsRegsBut s (s.setReg x b) [x] ∧ OnlyRegs s (s.setReg x b) :=
  ⟨by simp, s.setReg_keepsRegsBut x b, s.setReg_onlyRegs x b⟩

/-- A write of a result and the flag: what both hold then, and that nothing else changed (R182, D3). -/
theorem State.setResultAndFlag_spec (s : State) (x : Reg) (a b : Byte) :
    (x ≠ 15 → (s.setResultAndFlag x a b).reg x = a) ∧ (s.setResultAndFlag x a b).reg 15 = b ∧
      KeepsRegsBut s (s.setResultAndFlag x a b) [x, 15] ∧ OnlyRegs s (s.setResultAndFlag x a b) :=
  ⟨fun hx => by simp [vf, hx], by simp [vf], s.setResultAndFlag_keepsRegsBut x a b, s.setResultAndFlag_onlyRegs x a b⟩

/-! ## Loads, copies and logic -/

/-- Settles O21: both are `setReg`, and the sum wraps as a byte does. -/
theorem immediateLoadAndAdd : Obligations.ImmediateLoadAndAdd := by
  intro x kk s
  refine ⟨⟨_, exec_ldImm x kk s, s.setReg_spec x kk⟩, ?_⟩
  obtain ⟨hx, hkeep⟩ := s.setReg_spec x (s.reg x + kk)
  exact ⟨_, exec_addImm x kk s, by rw [hx, BitVec.toNat_add], hkeep⟩

/-- Settles O22: all four are `setReg`, and the logic operations act bit by bit. -/
theorem copyAndLogicWriteOneRegister : Obligations.CopyAndLogicWriteOneRegister := by
  intro x y s
  refine ⟨⟨_, exec_ldReg x y s, s.setReg_spec x _⟩, ?_, ?_, ?_⟩
  · obtain ⟨hx, hkeep⟩ := s.setReg_spec x (s.reg x ||| s.reg y)
    exact ⟨_, exec_orReg x y s, fun k => by rw [hx, BitVec.getLsbD_or], hkeep⟩
  · obtain ⟨hx, hkeep⟩ := s.setReg_spec x (s.reg x &&& s.reg y)
    exact ⟨_, exec_andReg x y s, fun k => by rw [hx, BitVec.getLsbD_and], hkeep⟩
  · obtain ⟨hx, hkeep⟩ := s.setReg_spec x (s.reg x ^^^ s.reg y)
    exact ⟨_, exec_xorReg x y s, fun k => by rw [hx, BitVec.getLsbD_xor], hkeep⟩

/-- Settles O26: Cxkk is `setReg` of the masked draw, and moves the index of the next draw. -/
theorem randomByteIsMaskedAndFresh : Obligations.RandomByteIsMaskedAndFresh := by
  intro x kk s
  obtain ⟨hx, hkeep, -⟩ := s.setReg_spec x (Config.randomByte s.draws &&& kk)
  exact ⟨_, exec_rnd x kk s, fun k => (congrArg (BitVec.getLsbD · k) hx).trans BitVec.getLsbD_and, rfl, hkeep,
    keepsRam_of_mem rfl rfl, rfl⟩

/-! ## Sums, differences and shifts with a flag -/

theorem carryFlag_toNat (a b : Byte) : (carryFlag a b).toNat = if a.toNat + b.toNat > 255 then 1 else 0 := by
  simp [carryFlag]

theorem notBorrowFlag_toNat (a b : Byte) : (notBorrowFlag a b).toNat = if a.toNat ≥ b.toNat then 1 else 0 := by
  simp [notBorrowFlag]

/-- Settles O23: the sum wraps as a byte does, and the carry is the flag. -/
theorem addSetsTheCarry : Obligations.AddSetsTheCarry := by
  intro x y s
  obtain ⟨hx, hf, hkeep⟩ := s.setResultAndFlag_spec x (s.reg x + s.reg y) (carryFlag (s.reg x) (s.reg y))
  exact ⟨_, exec_addReg x y s, fun hne => by rw [hx hne, BitVec.toNat_add], by rw [hf, carryFlag_toNat], hkeep⟩

theorem byte_sub_toNat (a b : Byte) : (a - b).toNat = (256 + a.toNat - b.toNat) % 256 := by
  have hb : b.toNat < 256 := b.isLt
  rw [BitVec.toNat_sub]
  omega

/-- Settles O24: the difference wraps as a byte does, and no-borrow is the flag. -/
theorem subtractionsSetNoBorrow : Obligations.SubtractionsSetNoBorrow := by
  intro x y s
  constructor
  · obtain ⟨hx, hf, hkeep⟩ := s.setResultAndFlag_spec x (s.reg x - s.reg y) (notBorrowFlag (s.reg x) (s.reg y))
    exact ⟨_, exec_subReg x y s, fun hne => by rw [hx hne, byte_sub_toNat], by rw [hf, notBorrowFlag_toNat], hkeep⟩
  · obtain ⟨hx, hf, hkeep⟩ := s.setResultAndFlag_spec x (s.reg y - s.reg x) (notBorrowFlag (s.reg y) (s.reg x))
    exact ⟨_, exec_subnReg x y s, fun hne => by rw [hx hne, byte_sub_toNat], by rw [hf, notBorrowFlag_toNat], hkeep⟩

theorem shiftedOutRight_toNat (b : Byte) : (shiftedOutRight b).toNat = b.toNat % 2 := by
  rw [shiftedOutRight, BitVec.toNat_and]
  exact Nat.and_one_is_mod _

theorem shiftedOutLeft_toNat (b : Byte) : (shiftedOutLeft b).toNat = b.toNat / 128 := by
  rw [shiftedOutLeft, BitVec.toNat_ushiftRight, Nat.shiftRight_eq_div_pow]

/-- Settles O25: the source by quirk and mode, then a shift of it by one and the bit it moves out. -/
theorem shiftsTakeTheQuirkSource : Obligations.ShiftsTakeTheQuirkSource := by
  intro x y s src hsrc
  have hsource : (s.shiftSource x y).toNat = src := by rw [State.shiftSource_eq, apply_ite BitVec.toNat, hsrc]
  constructor
  · obtain ⟨hx, hf, hkeep⟩ :=
      s.setResultAndFlag_spec x (s.shiftSource x y >>> 1) (shiftedOutRight (s.shiftSource x y))
    refine ⟨_, exec_shrReg x y s, fun hne => ?_, ?_, hkeep⟩
    · rw [hx hne, BitVec.toNat_ushiftRight, hsource, Nat.shiftRight_eq_div_pow, pow_one]
    · rw [hf, shiftedOutRight_toNat, hsource]
  · obtain ⟨hx, hf, hkeep⟩ :=
      s.setResultAndFlag_spec x (s.shiftSource x y <<< 1) (shiftedOutLeft (s.shiftSource x y))
    refine ⟨_, exec_shlReg x y s, fun hne => ?_, ?_, hkeep⟩
    · rw [hx hne, BitVec.toNat_shiftLeft, hsource, Nat.shiftLeft_eq, pow_one, mul_comm]
    · rw [hf, shiftedOutLeft_toNat, hsource]

end Sys2Proof.Machine
end

section
/-! PROOFS. The glyph addresses and the HP48 bytes (spec/43_index_memory.md R223, R224, R229, R230). -/

namespace Sys2Proof.Machine

theorem smallGlyphAddr_toNat (v : Byte) : (smallGlyphAddr v).toNat = 5 * (v.toNat % 16) := by
  rw [smallGlyphAddr, BitVec.toNat_ofNat, and_0xF_toNat]
  omega

theorem largeGlyphAddr_toNat (v : Byte) : (largeGlyphAddr v).toNat = 0x050 + 10 * (v.toNat % 16) := by
  rw [largeGlyphAddr, BitVec.toNat_ofNat, and_0xF_toNat]
  omega

/-- Settles O28: both are `setIndex` of the glyph's address, which fits in 12 bits. -/
theorem glyphAddressesAreComputed : Obligations.GlyphAddressesAreComputed := fun x s =>
  ⟨⟨_, exec_ldFont x s, smallGlyphAddr_toNat _, s.setIndex_onlyIndex _⟩,
    ⟨_, exec_ldLargeFont x s, largeGlyphAddr_toNat _, s.setIndex_onlyIndex _⟩⟩

/-- Where the policy does not refuse X, the registers below V8 that are moved are V0 to Vx (R229, R230). -/
theorem State.hp48Last?_of_accepted {s : State} {x : Reg} (h : x.val < 8 ∨ s.config.hp48Oob = .clamp) :
    ∃ n, s.hp48Last? x = some n ∧ ∀ k, k < 8 → (k ≤ n.val ↔ k ≤ x.val) := by
  by_cases hx : x.val < 8
  · exact ⟨_, s.hp48Last?_of_lt hx, fun k _ => Iff.rfl⟩
  · exact ⟨_, State.hp48Last?_clamp (by omega) (h.resolve_left hx), fun k hk => by
      show k ≤ 7 ↔ k ≤ x.val
      omega⟩

theorem State.getElem_saveHp48 (s : State) (n k : Fin 8) :
    (s.saveHp48 n).hp48[k.val] = if k.val ≤ n.val then s.v[k.val] else s.hp48[k.val] := by
  simp [State.saveHp48]

theorem State.getElem_loadHp48_of_lt (s : State) (n k : Fin 8) :
    (s.loadHp48 n).v[k.val] = if k.val ≤ n.val then s.hp48[k.val] else s.v[k.val] := by
  simp only [State.loadHp48, Vector.getElem_ofFn]
  rfl

theorem State.reg_loadHp48_of_ge (s : State) (n : Fin 8) {k : Reg} (hk : 8 ≤ k.val) :
    (s.loadHp48 n).reg k = s.reg k := by
  have : ¬ k.val ≤ n.val := by omega
  simp [State.loadHp48, State.reg, this]

theorem State.loadHp48_eq (s : State) (n : Fin 8) : s.loadHp48 n = { s with v := (s.loadHp48 n).v } := rfl

/-- Settles O33: the bytes moved are those of V0 to Vx below V8. -/
theorem flagBytesAreSavedAndLoaded : Obligations.FlagBytesAreSavedAndLoaded := by
  intro x s h
  obtain ⟨n, hn, hle⟩ := State.hp48Last?_of_accepted h
  constructor
  · refine ⟨_, exec_saveFlags_of_some hn, fun k => ?_, rfl, keepsRegs_of_v rfl, keepsRam_of_mem rfl rfl⟩
    simp only [State.getElem_saveHp48, hle k.val k.isLt]
  · refine ⟨_, exec_loadFlags_of_some hn, fun k => ?_, fun k hk => s.reg_loadHp48_of_ge n hk, s.loadHp48_eq n,
      keepsRam_of_mem (by rw [State.loadHp48_eq]) (by rw [State.loadHp48_eq])⟩
    simp only [State.getElem_loadHp48_of_lt, hle k.val k.isLt]

/-- Settles O34: the policy refuses X, and the halt records it. -/
theorem flagBytesPastSevenHalt : Obligations.FlagBytesPastSevenHalt := by
  intro x s hx hp
  have hrefused := State.hp48Last?_fault hx hp
  exact ⟨⟨_, exec_saveFlags_of_none hrefused, rfl⟩, ⟨_, exec_loadFlags_of_none hrefused, rfl⟩⟩

end Sys2Proof.Machine
end

section
/-! PROOFS. The key skips, the wait for a key and the sound timer register (spec/45_input_timers.md R270 to R276). -/

namespace Sys2Proof.Machine

/-- Settles O37: both are `skipIf` of whether the key is down. -/
theorem keySkipsReadTheKey : Obligations.KeySkipsReadTheKey := by
  intro x s down hdown
  have hkey : s.keyIsDown (s.reg x) = down := Bool.eq_iff_iff.mpr ((s.keyIsDown_iff _).trans hdown.symm)
  refine ⟨⟨_, exec_skp x s, s.skipIf_onlyPc _, ?_⟩, ⟨_, exec_sknp x s, s.skipIf_onlyPc _, ?_⟩⟩
  · rw [State.skipIf_pc_toNat, hkey]
  · rw [State.skipIf_pc_toNat, hkey]
    cases down <;> rfl

/-- The key that Fx0A finds: the lowest Released one in Legacy mode, the highest Down one in Extended mode (R273). -/
theorem State.foundKey_eq_some {s : State} {wanted : KeyState} {k : Fin 16}
    (hw : wanted = if s.mode = .legacy then .released else .down) (hk : s.keyCur[k.val] = wanted)
    (hlow : s.mode = .legacy → ∀ j : Fin 16, j < k → s.keyCur[j.val] ≠ wanted)
    (hhigh : s.mode = .extended → ∀ j : Fin 16, k < j → s.keyCur[j.val] ≠ wanted) : s.foundKey = some k := by
  cases hm : s.mode with
  | legacy =>
    obtain rfl : wanted = .released := hw.trans (if_pos hm)
    simp only [State.foundKey, hm, s.firstReleased_eq_some k hk (hlow hm)]
  | extended =>
    obtain rfl : wanted = .down := hw.trans (if_neg (by simp [hm]))
    simp only [State.foundKey, hm, s.lastDown_eq_some k hk (hhigh hm)]

theorem State.foundKey_eq_none {s : State} {wanted : KeyState}
    (hw : wanted = if s.mode = .legacy then .released else .down)
    (hnone : ∀ k : Fin 16, s.keyCur[k.val] ≠ wanted) : s.foundKey = none := by
  cases hm : s.mode with
  | legacy =>
    obtain rfl : wanted = .released := hw.trans (if_pos hm)
    simp only [State.foundKey, hm, s.firstReleased_eq_none hnone]
  | extended =>
    obtain rfl : wanted = .down := hw.trans (if_neg (by simp [hm]))
    simp only [State.foundKey, hm, s.lastDown_eq_none hnone]

/-- Settles O38: the scan of the mode finds the key or none; Vx ends as the key, or PC goes back. -/
theorem waitForKeyFindsOrRewinds : Obligations.WaitForKeyFindsOrRewinds := by
  intro x s wanted hw
  refine ⟨fun k hk hlow hhigh => ?_, fun hnone => ?_⟩
  · obtain ⟨hx, hkeep⟩ := s.setReg_spec x (BitVec.ofNat 8 k.val)
    refine ⟨_, exec_waitKey_of_some (State.foundKey_eq_some hw hk hlow hhigh) x, ?_, hkeep⟩
    rw [hx, BitVec.toNat_ofNat]
    omega
  · exact ⟨_, exec_waitKey_of_none (State.foundKey_eq_none hw hnone) x, rfl, s.setPc_onlyPc _⟩

/-- Settles O40: a value of 0 only sets ST, any other also emits. -/
theorem soundTimerIsSetAndSignalled : Obligations.SoundTimerIsSetAndSignalled := by
  intro x s
  by_cases h : s.reg x = 0#8
  · exact ⟨_, exec_ldSound_of_zero h, rfl, by simp [h], rfl, keepsRegs_of_v rfl, keepsRam_of_mem rfl rfl⟩
  · exact ⟨_, exec_ldSound_of_ne_zero h, rfl, by simp [h], rfl, keepsRegs_of_v rfl, keepsRam_of_mem rfl rfl⟩

end Sys2Proof.Machine
end

section
/-! PROOFS. RAM, and the instructions that load from it and store to it through I (spec/20_memory.md R70 to R85; spec/43_index_memory.md R221 to R228). -/

namespace Sys2Proof.Machine

/-! ## Canonical RAM -/

/-- The cells of a canonical memory are those whose byte differs from the unlisted one. -/
theorem Memory.mem_iff {c : Config} {m : Memory} (hm : Memory.wf c m) (p : Host.Cell) :
    p ∈ m ↔ Memory.read c m p.1 = p.2 ∧ p.2 ≠ Memory.unlisted c p.1 := by
  constructor
  · exact fun hp => ⟨Memory.read_of_mem hm hp, (hm.2 p hp).2⟩
  · rintro ⟨hread, hne⟩
    have hlisted := Memory.mem_of_read (hread ▸ hne : Memory.read c m p.1 ≠ Memory.unlisted c p.1)
    rwa [hread] at hlisted

/-- The addresses of a canonical memory rise, and no cell stands below itself. -/
theorem Memory.eq_of_mem_iff {c : Config} {m m' : Memory} (hm : Memory.wf c m) (hm' : Memory.wf c m')
    (h : ∀ p, p ∈ m ↔ p ∈ m') : m = m' :=
  haveI : Std.Irrefl (fun p q : Host.Cell => p.1 < q.1) := ⟨fun p => Nat.lt_irrefl p.1⟩
  haveI : Std.Antisymm (fun p q : Host.Cell => p.1 < q.1) := ⟨fun _ _ h h' => absurd h' (Nat.lt_asymm h)⟩
  List.Pairwise.eq_of_mem_iff hm.1 hm'.1 h

/-- Settles O59: equal reads give equal cells, and a write is read back by the law of `write`. -/
theorem canonicalMemoryIsItsBytes : Obligations.CanonicalMemoryIsItsBytes := by
  intro c m m' hm hm'
  refine ⟨fun h => Memory.eq_of_mem_iff hm hm' fun p => ?_, fun a x ha => ⟨Memory.write_wf hm ha, ?_, fun b hb => ?_⟩⟩
  · rw [Memory.mem_iff hm, Memory.mem_iff hm', h]
  · rw [Memory.read_write hm, if_pos rfl]
  · rw [Memory.read_write hm, if_neg hb]

/-! ## Stored bytes -/

variable {s : State}

/-- A stored byte reads back at its own address. -/
theorem State.readByte_storeBytes_at (hm : Memory.wf s.config s.mem) (a : Nat) {xs : List Byte}
    (hlen : xs.length ≤ ramSize) {k : Nat} (hk : k < xs.length) : (s.storeBytes a xs).readByte (a + k) = xs[k] :=
  (State.readByte_storeBytes hm a xs (a + k) hlen).1 k hk rfl

theorem State.storeBytes_keepsRamBut (hm : Memory.wf s.config s.mem) (a : Nat) {xs : List Byte}
    (hlen : xs.length ≤ ramSize) : KeepsRamBut s (s.storeBytes a xs) a xs.length := by
  intro b hb hno
  refine (State.readByte_storeBytes hm a xs b hlen).2 fun k hk => ?_
  rw [wrapAddr_of_lt hb]
  exact hno k hk

theorem State.storeBytes_onlyRam (s : State) (a : Nat) (xs : List Byte) : OnlyRam s (s.storeBytes a xs) :=
  ⟨s.storeBytes_eq a xs, keepsRegs_of_v (by rw [State.storeBytes_eq])⟩

/-! ## Fx33 -/

/-- The digits as arithmetic (R225). -/
theorem bcdDigits_toNat (v : Byte) :
    (BitVec.ofNat 8 (v.toNat / 100)).toNat = v.toNat / 100 ∧
      (BitVec.ofNat 8 (v.toNat / 10 % 10)).toNat = v.toNat / 10 % 10 ∧
      (BitVec.ofNat 8 (v.toNat % 10)).toNat = v.toNat % 10 := by
  have hv : v.toNat < 256 := v.isLt
  simp only [BitVec.toNat_ofNat]
  omega

/-- Settles O29: the three digits are stored from I on, and a stored byte reads back. -/
theorem bcdStoresThreeDigits : Obligations.BcdStoresThreeDigits := by
  intro x s hm h
  have hlen : (bcdDigits (s.reg x)).length ≤ ramSize := (by decide : 3 ≤ ramSize)
  have hread := fun k hk => State.readByte_storeBytes_at hm s.i.toNat hlen (k := k) hk
  obtain ⟨hhundreds, htens, hunits⟩ := bcdDigits_toNat (s.reg x)
  refine ⟨s.storeBytes s.i.toNat (bcdDigits (s.reg x)), ?_, ?_, ?_, ?_,
    State.storeBytes_keepsRamBut hm _ hlen, s.storeBytes_onlyRam _ _⟩
  · rw [exec_storeBcd, State.guardAddrs_completes (h.imp_right (by omega))]
  · exact (congrArg BitVec.toNat (hread 0 (by simp [bcdDigits]))).trans hhundreds
  · exact (congrArg BitVec.toNat (hread 1 (by simp [bcdDigits]))).trans htens
  · exact (congrArg BitVec.toNat (hread 2 (by simp [bcdDigits]))).trans hunits

/-! ## Fx55 and Fx65 -/

/-- The post-increment writes no register and no byte of RAM. -/
theorem State.reg_advanceIndex (s : State) (x r : Reg) : (s.advanceIndex x).reg r = s.reg r := by
  rw [State.advanceIndex_eq]
  rfl

theorem State.readByte_advanceIndex (s : State) (x : Reg) (a : Nat) : (s.advanceIndex x).readByte a = s.readByte a := by
  rw [State.advanceIndex_eq]
  rfl

theorem State.length_regBlock_le (s : State) (x : Reg) : (s.regBlock x).length ≤ ramSize := by
  rw [s.length_regBlock]
  simp only [ramSize]
  omega

/-- Storing V0 to Vx: byte I + k holds Vk (R227). -/
theorem State.readByte_storeBytes_regBlock (hm : Memory.wf s.config s.mem) {x k : Reg} (hk : k ≤ x) :
    (s.storeBytes s.i.toNat (s.regBlock x)).readByte (s.i.toNat + k.val) = s.reg k := by
  have hin : k.val < (s.regBlock x).length := by
    rw [s.length_regBlock]
    exact Nat.lt_succ_of_le hk
  rw [State.readByte_storeBytes_at hm _ (s.length_regBlock_le x) hin, State.getElem_regBlock]

/-- Settles O30: V0 to Vx are stored from I on, and the post-increment moves I alone. -/
theorem blockStoreWritesTheRegisters : Obligations.BlockStoreWritesTheRegisters := by
  intro x s hm h
  refine ⟨(s.storeBytes s.i.toNat (s.regBlock x)).advanceIndex x, ?_, fun k hk => ?_, fun a ha hno => ?_, ?_,
    fun r _ => ?_, ?_⟩
  · rw [exec_storeRegs, State.guardAddrs_completes (h.imp_right (by omega))]
  · rw [State.readByte_advanceIndex, State.readByte_storeBytes_regBlock hm hk]
  · rw [State.readByte_advanceIndex]
    exact State.storeBytes_keepsRamBut hm _ (s.length_regBlock_le x) a ha (by rwa [s.length_regBlock])
  · rw [State.advanceIndex_i_toNat, State.storeBytes_eq]
  · rw [State.reg_advanceIndex]
    exact (s.storeBytes_onlyRam _ _).2 r (by simp)
  · rw [State.advanceIndex_eq, State.storeBytes_eq]

/-- Settles O31: V0 to Vx are loaded from I on, and the post-increment moves I alone. -/
theorem blockLoadReadsTheRegisters : Obligations.BlockLoadReadsTheRegisters := by
  intro x s h
  refine ⟨(s.loadBlock x).advanceIndex x, ?_, fun k hk => ?_, fun k hk => ?_, ?_, fun a => ?_, ?_⟩
  · rw [exec_loadRegs, State.guardAddrs_completes (h.imp_right (by omega))]
  · rw [State.reg_advanceIndex, State.reg_loadBlock, if_pos hk]
  · rw [State.reg_advanceIndex, State.reg_loadBlock, if_neg (Fin.not_le.mpr hk)]
  · rw [State.advanceIndex_i_toNat, State.loadBlock_eq]
  · rw [State.readByte_advanceIndex]
    exact State.readByte_congr (by rw [State.loadBlock_eq]) (by rw [State.loadBlock_eq]) a
  · rw [State.advanceIndex_eq, State.loadBlock_eq]

/-- Settles O32: each instruction's addresses are the ones from I on, and the guard halts at the first past 0xFFF. -/
theorem addressesPastRamHalt : Obligations.AddressesPastRamHalt := by
  intro x y n s hp
  refine ⟨fun h => ⟨_, ?_, rfl⟩, fun h => ⟨_, ?_, rfl⟩, fun h => ⟨_, ?_, rfl⟩, fun h => ⟨_, ?_, rfl⟩⟩
  · rw [exec_storeBcd, State.guardAddrs_halts hp (by omega)]
    rfl
  · rw [exec_storeRegs, State.guardAddrs_halts hp (by omega)]
    rfl
  · rw [exec_loadRegs, State.guardAddrs_halts hp (by omega)]
    rfl
  · rw [exec_drw, State.guardAddrs_halts hp (by rwa [State.spriteBytes_eq])]
    rfl

/-- An instruction that took no halt was not stopped by its guard. -/
theorem State.guardAddrs_of_stopReq {addrs : List Nat} {completed : State}
    (h : (s.guardAddrs addrs completed).stopReq = false) : s.guardAddrs addrs completed = completed := by
  obtain ⟨bad, -, -, -, hhalt⟩ | hdone := s.guardAddrs_cases addrs completed
  · rw [hhalt] at h
    cases h
  · exact hdone

/-- Settles O60: the two bytes at PC read as the two registers, and the fetch puts them together. -/
theorem storesAreSeenByTheNextFetch : Obligations.StoresAreSeenByTheNextFetch := by
  intro x k s t hm hexec ht _ hk hpc hlast
  obtain rfl := Host.Outcome.next.inj hexec
  rw [State.guardAddrs_of_stopReq ht]
  have hnext : (k + 1).val = k.val + 1 := Fin.val_add_one_of_lt (hk.trans_le (Fin.le_last x))
  have hpcKept : ((s.storeBytes s.i.toNat (s.regBlock x)).advanceIndex x).pc = s.pc := by
    rw [State.advanceIndex_eq, State.storeBytes_eq]
  have hread : ∀ j : Reg, j ≤ x →
      ((s.storeBytes s.i.toNat (s.regBlock x)).advanceIndex x).readByte (s.i.toNat + j.val) = s.reg j := fun j hj => by
    rw [State.readByte_advanceIndex, State.readByte_storeBytes_regBlock hm hj]
  obtain ⟨-, hbad, -⟩ | hf := ((s.storeBytes s.i.toNat (s.regBlock x)).advanceIndex x).fetchWord_cases
  · rw [hpcKept] at hbad
    simp [hbad] at hlast
  · rw [hf, hpcKept, hpc, hread k hk.le, Nat.add_assoc, ← hnext, hread (k + 1) (Fin.add_one_le_of_lt hk)]

end Sys2Proof.Machine
end

section
/-! PROOFS. The sprite draw (spec/44_draw.md R250 to R259). -/

namespace Sys2Proof.Machine

variable {s t : State}

/-- The state after a draw whose buffer and flag are given (R254 to R257). -/
def State.afterDraw (s : State) (b : VideoBuffer) (flag : Byte) : State := ((s.setVb b).setReg vf flag).signalFrame

/-- A draw that no address policy refuses (R256). -/
theorem exec_drw_of_accepted (x y : Reg) {n : BitVec 4}
    (h : s.config.addrOob = .wrap ∨
      s.i.toNat + (if n = 0#4 then (if s.mode = .extended then 32 else 16) else n.toNat) ≤ 4096) :
    exec (.drw x y n) s = .next (s.afterDraw (VideoBuffer.drawCells s.vb (s.spriteCells x y n)).1
      (flagByte (VideoBuffer.drawCells s.vb (s.spriteCells x y n)).2)) := by
  rw [exec_drw, State.guardAddrs_completes (by rwa [State.spriteBytes_eq]), State.drawSprite, State.afterDraw]

theorem State.reg_vf_afterDraw (s : State) (b : VideoBuffer) (flag : Byte) : (s.afterDraw b flag).reg 15 = flag :=
  ((s.setVb b).reg_setReg vf 15 flag).trans (if_pos rfl)

/-- What a draw keeps and what it signals (R257). -/
theorem State.afterDraw_frame (s : State) (b : VideoBuffer) (flag : Byte) :
    KeepsRegsBut s (s.afterDraw b flag) [15] ∧ KeepsRam s (s.afterDraw b flag) ∧
      (s.afterDraw b flag).events = s.events ++ [.frameReady (s.afterDraw b flag).vb] ∧
      (s.afterDraw b flag).haltForRender = true ∧
      s.afterDraw b flag = { s with
        v := (s.afterDraw b flag).v, vb := (s.afterDraw b flag).vb, events := (s.afterDraw b flag).events,
        haltForRender := (s.afterDraw b flag).haltForRender } :=
  ⟨(s.setVb b).setReg_keepsRegsBut vf flag, keepsRam_of_mem rfl rfl, rfl, rfl, rfl⟩

/-- The draw flips the cells that the sprite covers (R254, R255). -/
theorem State.getPixel_drawCells (s : State) (x y : Reg) (n : BitVec 4) {cx cy : Nat} (hx : cx < 128) (hy : cy < 64) :
    VideoBuffer.getPixel (VideoBuffer.drawCells s.vb (s.spriteCells x y n)).1 cx cy =
      (VideoBuffer.getPixel s.vb cx cy ^^ DrawHits s x y n cx cy) := by
  have hcell := (VideoBuffer.drawCells_spec s.vb _ (s.spriteCells_nodup x y n) (s.spriteCells_inside x y n)).1 cx cy
  have hhit : decide ((cx, cy) ∈ s.spriteCells x y n) = DrawHits s x y n cx cy := by
    rw [Bool.eq_iff_iff, decide_eq_true_eq, s.mem_spriteCells_iff x y n hx hy]
  rwa [hhit] at hcell

/-- Whether some covered cell was 1 before the draw (R254, D29). -/
def Collides (s : State) (x y : Reg) (n : BitVec 4) : Prop :=
  ∃ cx cy : Nat, cx < 128 ∧ cy < 64 ∧ DrawHits s x y n cx cy = true ∧ VideoBuffer.getPixel s.vb cx cy = true

/-- The draw's flag says whether it collides (R254). -/
theorem State.drawCells_flag_iff (s : State) (x y : Reg) (n : BitVec 4) :
    (VideoBuffer.drawCells s.vb (s.spriteCells x y n)).2 = true ↔ Collides s x y n := by
  have hin := s.spriteCells_inside x y n
  rw [(VideoBuffer.drawCells_spec s.vb _ (s.spriteCells_nodup x y n) hin).2]
  constructor
  · rintro ⟨⟨cx, cy⟩, hmem, hone⟩
    obtain ⟨hx, hy⟩ := hin _ hmem
    exact ⟨cx, cy, hx, hy, (s.mem_spriteCells_iff x y n hx hy).mp hmem, hone⟩
  · rintro ⟨cx, cy, hx, hy, hhit, hone⟩
    exact ⟨(cx, cy), (s.mem_spriteCells_iff x y n hx hy).mpr hhit, hone⟩

/-- Settles O35: the cells by the law of `drawCells`, VF by its flag, and what a draw keeps. -/
theorem drawFlipsTheSpritesCells : Obligations.DrawFlipsTheSpritesCells := by
  intro x y n s h
  refine ⟨_, exec_drw_of_accepted x y h, fun cx cy => s.getPixel_drawCells x y n, fun hcollides => ?_, fun hnone => ?_,
    s.afterDraw_frame _ _⟩
  · rw [State.reg_vf_afterDraw, (s.drawCells_flag_iff x y n).mpr hcollides]
    rfl
  · have hflag : (VideoBuffer.drawCells s.vb (s.spriteCells x y n)).2 = false := by
      rw [Bool.eq_false_iff, Ne, s.drawCells_flag_iff]
      rintro ⟨cx, cy, hx, hy, hhit, hone⟩
      simp [hnone cx cy hx hy hhit] at hone
    rw [State.reg_vf_afterDraw, hflag]
    rfl

/-- Which cells a draw flips depends on the mode, I, RAM and the values of the two coordinates alone. -/
theorem drawHits_congr {x y x' y' : Reg} (hmode : t.mode = s.mode) (hi : t.i = s.i) (hram : KeepsRam s t)
    (hx : t.reg x' = s.reg x) (hy : t.reg y' = s.reg y) (n : BitVec 4) (cx cy : Nat) :
    DrawHits t x' y' n cx cy = DrawHits s x y n cx cy := by
  have hbyte : ∀ a, t.readByte a = s.readByte a := hram
  simp only [DrawHits, SpriteHas, hmode, hi, hx, hy, hbyte]

/-- Settles O36: the second draw covers the same cells, so it flips them back, and it collides where the first draw
turned a 0 to 1. -/
theorem drawingTwiceRestoresTheBuffer : Obligations.DrawingTwiceRestoresTheBuffer := by
  intro x y x' y' n s t h hexec hx hy
  obtain ⟨t', hexec', hcells, -, -, -, hram, -, -, ht⟩ := drawFlipsTheSpritesCells x y n s h
  obtain rfl : t' = t := Host.Outcome.next.inj (hexec'.symm.trans hexec)
  have hmode : t'.mode = s.mode := by rw [ht]
  have hi : t'.i = s.i := by rw [ht]
  have hconfig : t'.config = s.config := by rw [ht]
  have hhits := drawHits_congr hmode hi hram hx hy n
  obtain ⟨u, huexec, hucells, hone, hzero, -⟩ := drawFlipsTheSpritesCells x' y' n t' (by rwa [hconfig, hi, hmode])
  refine ⟨u, huexec, VideoBuffer.ext_getPixel fun cx cy hcx hcy => ?_, fun hvf => ?_, ?_⟩
  · rw [hucells cx cy hcx hcy, hhits, hcells cx cy hcx hcy, Bool.xor_assoc, Bool.xor_self, Bool.xor_false]
  · by_contra hnone
    have hclear := hzero fun cx cy hcx hcy hhit => Bool.eq_false_iff.mpr fun hset => by
      have hcell := hcells cx cy hcx hcy
      rw [hset, ← hhits, hhit, Bool.xor_true] at hcell
      exact hnone ⟨cx, cy, by simpa using hcell, hset⟩
    rw [hclear] at hvf
    exact absurd hvf (by decide)
  · rintro ⟨cx, cy, hbefore, hafter⟩
    have hcx : cx < 128 := by
      by_contra hge
      simp [VideoBuffer.getPixel_of_column_ge t'.vb (Nat.le_of_not_lt hge)] at hafter
    have hcy : cy < 64 := by
      by_contra hge
      simp [VideoBuffer.getPixel_of_row_ge t'.vb (Nat.le_of_not_lt hge)] at hafter
    have hcell := hcells cx cy hcx hcy
    rw [hafter, hbefore, Bool.false_xor] at hcell
    exact hone ⟨cx, cy, hcx, hcy, by rw [hhits, ← hcell], hafter⟩

end Sys2Proof.Machine
end

section
/-! PROOFS. The reset state, the start of a run and the load failure (spec/10_state.md R57; spec/20_memory.md R71, R78, R79; spec/70_reset_and_hazards.md R350 to R353). -/

namespace Sys2Proof.Machine

variable {s s' t u : State}

/-! ## RAM before anything is written -/

theorem Memory.unlisted_small (c : Config) (k : Fin 80) : Memory.unlisted c k.val = c.smallFont[k.val] := by
  simp only [Memory.unlisted, k.isLt, dif_pos]

theorem Memory.unlisted_large (c : Config) (k : Fin 160) : Memory.unlisted c (0x050 + k.val) = Config.fontLarge k := by
  have h1 : ¬ 0x050 + k.val < 80 := by omega
  have h2 : 0x050 + k.val < 240 := by omega
  simp only [Memory.unlisted, h1, h2, dif_neg, dif_pos, not_false_eq_true, Nat.add_sub_cancel_left]

theorem Memory.unlisted_of_ge (c : Config) {a : Nat} (h : 0x0F0 ≤ a) : Memory.unlisted c a = 0#8 := by
  have h1 : ¬ a < 80 := by omega
  have h2 : ¬ a < 240 := by omega
  simp only [Memory.unlisted, h1, h2, dif_neg, not_false_eq_true]

/-! ## The start-of-run values -/

theorem State.reset_reg (r : Reg) : State.reset.reg r = 0#8 := by simp [State.reset, State.reg]

theorem State.reset_stack (k : Fin 16) : State.reset.stack[k.val] = 0#16 := by simp [State.reset]

theorem State.reset_hp48 (k : Fin 8) : State.reset.hp48[k.val] = 0#8 := by simp [State.reset]

theorem State.reset_keys (k : Fin 16) : State.reset.keyCur[k.val] = .up ∧ State.reset.keyPrev[k.val] = .up := by
  simp [State.reset]

theorem State.reset_getPixel (x y : Nat) : VideoBuffer.getPixel State.reset.vb x y = false :=
  VideoBuffer.getPixel_clear x y

theorem State.reset_readByte {a : Nat} (h : a < ramSize) :
    State.reset.readByte a = Memory.unlisted Config.default a := by
  rw [State.readByte, wrapAddr_of_lt h]
  rfl

/-- Settles O51: the start-of-run values, and RAM with nothing listed. -/
theorem resetIsPowerOn : Obligations.ResetIsPowerOn := by
  refine ⟨rfl, rfl, rfl, rfl, rfl, rfl, rfl, rfl, rfl, State.reset_stack, State.reset_hp48, State.reset_reg, rfl, rfl,
    rfl, rfl, rfl, State.reset_getPixel, State.reset_keys, rfl, rfl, rfl, rfl, rfl, rfl, rfl, rfl, fun k => ?_,
    fun k => ?_, fun k hk hlt => ?_⟩
  · rw [State.reset_readByte (by simp only [ramSize]; omega), Memory.unlisted_small]
    rfl
  · rw [State.reset_readByte (by simp only [ramSize]; omega), Memory.unlisted_large]
  · rw [State.reset_readByte hlt, Memory.unlisted_of_ge _ hk]

/-! ## The two steps of a load -/

/-- The first step takes the Run command (R351). -/
theorem step_of_run_pending {rom : Rom} {a b : Bool} {rest : List Command} (hl : s.lifecycle = .stopped)
    (ht : s.inTick = false) (hc : s.commands = .run (some rom) (some a) (some b) :: rest) :
    step s = .next (State.beginLoad { s with commands := rest } ⟨rom, a, b⟩) := by
  rw [step_stopped ht hl, State.idle_of_cons hc]
  simp only [State.applyCommand, State.commandRun, hl]

/-- The second step starts the run with a ROM that fits (R351). -/
theorem step_beginLoad_of_fits (s : State) {rom : List Byte} (ht : s.inTick = false) (hrom : rom.length ≤ 3584) (a b : Bool) :
    step (s.beginLoad ⟨.bytes rom, a, b⟩) = .next ((s.beginLoad ⟨.bytes rom, a, b⟩).startRun rom a b) := by
  rw [step_loading (s := s.beginLoad _) ht rfl]
  exact congrArg Host.Outcome.next (if_pos hrom)

/-- The second step is a load failure with any other ROM (R352). -/
theorem step_beginLoad_of_bad (s : State) {rom : Rom} (ht : s.inTick = false)
    (hrom : rom = .unobtainable ∨ ∃ content, rom = .bytes content ∧ 3584 < content.length) (a b : Bool) :
    step (s.beginLoad ⟨rom, a, b⟩) = .next (s.beginLoad ⟨rom, a, b⟩).loadFailure := by
  rw [step_loading (s := s.beginLoad _) ht rfl]
  obtain rfl | ⟨content, rfl, hlen⟩ := hrom
  · rfl
  · exact congrArg Host.Outcome.next (if_neg (Nat.not_le.mpr hlen))

/-- Settles O44: the two steps, field by field. -/
theorem badRomIsALoadFailure : Obligations.BadRomIsALoadFailure := by
  intro s rom a b rest hl ht hrom hc
  refine ⟨_, _, step_of_run_pending hl ht hc, rfl, step_beginLoad_of_bad { s with commands := rest } ht hrom a b, ?_, ?_⟩
  · simp [State.loadFailure, State.beginLoad]
  · simp only [State.loadFailure, State.beginLoad, State.emit, hl]

/-! ## The state a run starts in -/

/-- RAM at the start of a run: the ROM from 0x200 on, the fonts and 0 elsewhere (R57, R79). -/
theorem State.readByte_startRun (s : State) {rom : List Byte} (hrom : rom.length ≤ 3584) (a b : Bool) {k : Nat}
    (hk : k < 4096) :
    (s.startRun rom a b).readByte k =
      if 0x200 ≤ k then (rom[k - 0x200]?).getD (Memory.unlisted s.config k) else Memory.unlisted s.config k := by
  have hread : (s.startRun rom a b).readByte k =
      Memory.read s.config (Memory.loadRom s.config romBase rom []) (wrapAddr k) := rfl
  rw [hread, wrapAddr_of_lt hk, Memory.read_loadRom (Memory.nil_wf _) rom romBase
    (by simp only [romBase, ramSize]; omega)]
  rfl

/-- Settles O43: the two steps, the values of the reset state, and RAM by the law of `LoadROM`. -/
theorem runStartsFromTheResetTable : Obligations.RunStartsFromTheResetTable := by
  intro s rom a b rest hl ht hrom hc
  have hbyte := fun k (hk : k < 4096) =>
    (State.beginLoad { s with commands := rest } ⟨.bytes rom, a, b⟩).readByte_startRun hrom a b hk
  refine ⟨_, _, step_of_run_pending hl ht hc, rfl, step_beginLoad_of_fits { s with commands := rest } ht hrom a b, rfl, ?_, rfl, rfl, rfl, rfl, rfl,
    rfl, rfl, rfl, State.reset_reg, rfl, rfl, rfl, State.reset_stack, State.reset_hp48, rfl, rfl, rfl,
    State.reset_getPixel, State.reset_keys, rfl, rfl, rfl, rfl, fun k => ?_, fun k => ?_, fun k hk => ?_,
    fun k hlow hhigh hout => ?_⟩
  · simp [State.startRun, State.beginLoad]
  · rw [hbyte _ (by omega), if_neg (by omega), Memory.unlisted_small]
    rfl
  · rw [hbyte _ (by omega), if_neg (by omega), Memory.unlisted_large]
  · rw [hbyte _ (by omega), if_pos (by omega), Nat.add_sub_cancel_left, List.getElem?_eq_getElem hk, Option.getD_some]
  · rw [hbyte k hhigh, Memory.unlisted_of_ge _ hlow]
    split
    · rw [List.getElem?_eq_none (by omega), Option.getD_none]
    · rfl

/-- The state a run starts in takes the channels, the parameters and the draw index from the state before, and nothing
else (R353). -/
theorem State.startRun_congr (hev : s'.events = s.events) (hcmd : s'.commands = s.commands)
    (harr : s'.arrivals = s.arrivals) (hdr : s'.draws = s.draws) (hcfg : s'.config = s.config) (rom : List Byte)
    (a b : Bool) : s.startRun rom a b = s'.startRun rom a b := by
  simp only [State.startRun, hev, hcmd, harr, hdr, hcfg]

/-- The two steps that serve a Run whose ROM fits, as one equation. -/
theorem eq_startRun_of_two_steps {rom : List Byte} {a b : Bool} {rest : List Command} (hl : s.lifecycle = .stopped)
    (ht : s.inTick = false) (hrom : rom.length ≤ 3584)
    (hc : s.commands = .run (some (.bytes rom)) (some a) (some b) :: rest) (hst : step s = .next t)
    (htu : step t = .next u) :
    u = (State.beginLoad { s with commands := rest } ⟨.bytes rom, a, b⟩).startRun rom a b := by
  obtain rfl := Host.Outcome.next.inj ((step_of_run_pending hl ht hc).symm.trans hst)
  exact (Host.Outcome.next.inj ((step_beginLoad_of_fits { s with commands := rest } ht hrom a b).symm.trans htu)).symm

/-- Settles O50: both machines reach the state that their common channels, parameters and draw index determine. -/
theorem nothingSurvivesIntoTheNextRun : Obligations.NothingSurvivesIntoTheNextRun := by
  intro s s' t t' u u' rom a b rest hl hl' ht ht' hrom hc hc' hev harr hdr hcfg hst htu hst' htu'
  rw [eq_startRun_of_two_steps hl ht hrom hc hst htu,
    eq_startRun_of_two_steps hl' ht' hrom (hc'.trans hc) hst' htu']
  refine State.startRun_congr ?_ ?_ ?_ ?_ ?_ rom a b
  · exact congrArg (· ++ [.stateChanged .loadingROM]) hev
  · rfl
  · exact harr
  · exact hdr
  · exact hcfg

end Sys2Proof.Machine
end

section
/-! PROOFS. The host's commands and the steps outside a tick (spec/60_exceptions.md R330 to R337; spec/70_reset_and_hazards.md R350, R357, R358, R364). -/

namespace Sys2Proof.Machine

/-- Settles O45: the oldest command is Stop, and Stop is the stop sequence without a cause. -/
theorem stopCommandStopsTheRun : Obligations.StopCommandStopsTheRun := by
  intro s rest hl ht hc
  have hstop : s.betweenTicks = State.stopSequence { s with commands := rest } none := by
    rw [State.betweenTicks_of_cons hc]
    exact if_pos hl
  refine ⟨_, step_between ht hl, ?_⟩
  rw [hstop, State.stopSequence_eq]
  refine ⟨rfl, rfl, VideoBuffer.getPixel_clear, ?_, ?_⟩
  · simp
  · rw [ht]

/-- Settles O46: the oldest command writes its key, or the two settings. -/
theorem inputAndSettingsAreApplied : Obligations.InputAndSettingsAreApplied := by
  intro s rest hl ht
  refine ⟨fun k x hc => ?_, fun a b hc => ?_⟩
  · have hkey : s.betweenTicks = State.setKey { s with commands := rest } k x := by
      rw [State.betweenTicks_of_cons hc]
      simp only [State.applyCommand, State.commandSendInput, hl, k.isLt, dif_pos]
    refine ⟨_, step_between ht hl, ?_⟩
    rw [hkey]
    refine ⟨Vector.getElem_set_self _, fun j hj => ?_, rfl⟩
    exact Vector.getElem_set_ne k.isLt j.isLt fun h => hj (Fin.ext h.symm)
  · have hset : s.betweenTicks = { s with altShift := a, altStoreLoad := b, commands := rest } := by
      rw [State.betweenTicks_of_cons hc]
      simp only [State.applyCommand, State.commandSetSettings, hl]
    refine ⟨_, step_between ht hl, ?_⟩
    rw [hset]
    exact ⟨rfl, rfl, rfl⟩

/-- Settles O47: for each command the one case in which it acts is excluded. -/
theorem unacceptedCommandsChangeNothing : Obligations.UnacceptedCommandsChangeNothing := by
  intro s c h
  cases c with
  | run rom a b =>
    simp only [State.applyCommand, State.commandRun]
    split
    · simp_all
    · rfl
  | stop => exact if_neg h
  | setSettings a b =>
    simp only [State.applyCommand, State.commandSetSettings]
    split
    · simp_all
    · rfl
  | sendInput k x =>
    simp only [State.applyCommand, State.commandSendInput]
    split
    · split
      · next hlt => simp_all [Nat.not_le.mpr hlt]
      · rfl
    · rfl

/-- Settles O48: the oldest pending command, or the start of a tick with the next batch received. -/
theorem commandsComeBeforeTheNextTick : Obligations.CommandsComeBeforeTheNextTick := by
  intro s hl ht
  refine ⟨fun c rest hc => ?_, fun hc => ⟨_, step_between ht hl, ?_⟩⟩
  · rw [step_between ht hl, State.betweenTicks_of_cons hc]
  · rw [State.betweenTicks_of_none hc]
    exact ⟨rfl, rfl, rfl, fun h => by simp [h], fun batch rest h => by simp [h], rfl⟩

/-- Settles O49: the oldest pending command, or the next batch received, or nothing. -/
theorem stoppedMachineWaits : Obligations.StoppedMachineWaits := by
  intro s hl ht
  refine ⟨fun c rest hc => ?_, fun batch rest hc ha => ?_, fun hc ha => ?_⟩
  · rw [step_stopped ht hl, State.idle_of_cons hc]
  · rw [step_stopped ht hl, State.idle_of_none hc, ha, List.headD_cons, List.tail_cons]
  · rw [step_stopped ht hl, State.idle_of_none hc, ha, List.headD_nil, List.tail_nil, ← hc, ← ha]

end Sys2Proof.Machine
end
